-- ==== Sys2Proof/Word.lean ====
section
/-! DEFINITION. The word types of the block (spec 00_scope R9, 30_encoding R70, R80). -/

namespace Sys2Proof

/-- A byte: an unsigned 8-bit value, bit 0 the least significant (R9). -/
abbrev Byte := BitVec 8

/-- A host command word or a host result word: 32 bits (R70, R80). -/
abbrev Word := BitVec 32

/-- A train's DCC address: 14 bits (R7, R25). -/
abbrev DccAddr := BitVec 14

/-- The id of a caller, assigned by the host (60_exceptions R211).
The spec gives it no width: a natural number (DESIGN CHOICE, log 13). -/
abbrev CallerId := Nat

end Sys2Proof
end

