-- ==== Sys2Proof/Config.lean ====
section
/-! DEFINITION. What an implementation fixes (the parameters of 00_scope R7), the alphabet of the environment
(who moves, what the outside answers: R6, R12, R15), and the free values. -/

namespace Sys2Proof

/-- A row of FUNC_TABLE (R7): group index, group opcode, on-mask, off-mask. -/
structure FuncRow where
  group       : Fin 3
  groupOpcode : Byte
  onMask      : Byte
  offMask     : Byte
  deriving DecidableEq, Repr

/-- The five register offsets of one bank of an expander (R7, 20_memory R54). -/
structure BankOffsets where
  dir    : Byte
  inten  : Byte
  pullup : Byte
  cap    : Byte
  data   : Byte
  deriving DecidableEq, Repr

/-- One of the expander's two banks (20_memory R54). -/
inductive Bank where
  | a
  | b
  deriving DecidableEq, Repr

/-- The kinds of expander register the block knows of (20_memory R54). -/
inductive RegKind where
  | dir
  | inten
  | pullup
  | cap
  | data
  deriving DecidableEq, Repr

/-- The OPEN parameters of R7. DEVICE_ID and BAUD are opaque values handed to the serial transport
(D37): natural numbers here (DESIGN CHOICE, log 13). -/
structure Params where
  nt            : Nat
  np            : Nat
  funcTable     : Vector FuncRow 13
  offA          : BankOffsets
  offB          : BankOffsets
  cfgDirAIn     : Byte
  cfgDirBOut    : Byte
  cfgPullupAAll : Byte
  cfgIntenAAll  : Byte
  deviceId      : Nat
  baud          : Nat
  deriving DecidableEq, Repr

/-- How a transaction that completed answered: `ok` with what it returned, or `fail` (R12). -/
inductive Reply (α : Type) where
  | ok (a : α)
  | fail
  deriving DecidableEq, Repr, Inhabited

/-- The oracle's answer to a transaction that may also not complete yet (R12, D47). -/
inductive Answer (α : Type) where
  | ok (a : α)
  | fail
  | blocked
  deriving DecidableEq, Repr, Inhabited

/-- The oracle's answers for one step (R15). A step performs at most one transaction (R5), so at most
one of the four is used: `life` by the lifecycle calls, `write` by SerWrite and BusWrite, `drain` by
SerDrain, `read` by BusRead. -/
structure Draw where
  life  : Reply Unit
  write : Answer Unit
  drain : Answer (List Byte)
  read  : Answer Byte
  deriving DecidableEq, Repr, Inhabited

/-- Which agent moves next, and what the host does when it is the host's move (R6, 20_memory R61).
`issue`: the caller issues a command word; `accept`: the block considers the caller's held command;
`receive`: the caller takes its pending result word; `fs`, `bs j`: a step of that sequencer;
`reset`: the reset event (70_reset R230). -/
inductive Move where
  | issue (c : CallerId) (w : Word)
  | accept (c : CallerId)
  | receive (c : CallerId)
  | fs
  | bs (j : Nat)
  | reset
  deriving DecidableEq, Repr, Inhabited

/-- One turn of the environment: the move and the oracle's answers for its step. -/
structure Turn where
  move : Move
  draw : Draw
  deriving DecidableEq, Repr

/-- A draw in which nothing answers. No step reads it: a turn sets the draw before its step runs
(DESIGN CHOICE, log 4). -/
def Config.noDraw : Draw := ⟨.fail, .blocked, .blocked, .blocked⟩

/-- Free value: the agent that moves at the n-th turn taken past the end of the script.
Nothing constrains it (20_memory R61; log 3). -/
opaque Config.freeMove : Nat → Move

/-- Free value: what the outside answers at the n-th turn taken past the end of the script.
Nothing constrains it (R15, "an oracle under no law"; log 3). -/
opaque Config.freeDraw : Nat → Draw

/-- The reference FUNC_TABLE of D16. PRESUMED: from general knowledge, not in the source (log 1). -/
def Config.refFuncTable : Vector FuncRow 13 :=
  #v[⟨0, 0x20#8, 0x10#8, 0x10#8⟩, ⟨0, 0x20#8, 0x01#8, 0x01#8⟩, ⟨0, 0x20#8, 0x02#8, 0x02#8⟩,
     ⟨0, 0x20#8, 0x04#8, 0x04#8⟩, ⟨0, 0x20#8, 0x08#8, 0x08#8⟩,
     ⟨1, 0x21#8, 0x01#8, 0x01#8⟩, ⟨1, 0x21#8, 0x02#8, 0x02#8⟩, ⟨1, 0x21#8, 0x04#8, 0x04#8⟩,
     ⟨1, 0x21#8, 0x08#8, 0x08#8⟩,
     ⟨2, 0x22#8, 0x01#8, 0x01#8⟩, ⟨2, 0x22#8, 0x02#8, 0x02#8⟩, ⟨2, 0x22#8, 0x04#8, 0x04#8⟩,
     ⟨2, 0x22#8, 0x08#8, 0x08#8⟩]

/-- The parameter set State.reset names: the reference values of D16, D17, D18 and the test vectors'
NT = 4, NP = 2. PRESUMED (log 1): every parameter is OPEN in the spec, and claims are about every set. -/
def Config.reference : Params where
  nt            := 4
  np            := 2
  funcTable     := Config.refFuncTable
  offA          := ⟨0x00#8, 0x04#8, 0x0C#8, 0x10#8, 0x12#8⟩
  offB          := ⟨0x01#8, 0x05#8, 0x0D#8, 0x11#8, 0x13#8⟩
  cfgDirAIn     := 0xFF#8
  cfgDirBOut    := 0x00#8
  cfgPullupAAll := 0xFF#8
  cfgIntenAAll  := 0xFF#8
  deviceId      := 0
  baud          := 0

end Sys2Proof
end

