-- ==== Sys2Proof/Syntax.lean ====
section
/-! DEFINITION. The commands and wire frames of spec/opcode_table.json: one constructor a row
(30_encoding R71, R86, R87, R88). Operands keep the width of their field; whether a value is valid is
for the command's own checks (R75). -/

namespace Sys2Proof

/-- Travel direction: bit value 1 is FORWARD, 0 is REVERSE (R75). -/
inductive Dir where
  | forward
  | reverse
  deriving DecidableEq, Repr

/-- A one-bit switch: 1 is ON, 0 is OFF (R75, operands `sw` and `en`). -/
inductive Switch where
  | on
  | off
  deriving DecidableEq, Repr

/-- One constructor per row of the opcode table: the thirteen host commands and the four wire frames.
In a frame `c` is its checksum byte; `o` is the accessory offset's bits 6..1; `g` and `v` are the group
opcode and the group byte. -/
inductive Instr where
  | openSerial
  | closeSerial
  | setDiag (en : Switch)
  | bindTrain (slot : Byte) (addr : BitVec 16)
  | throttle (slot : Byte) (dir : Dir) (speed : Byte)
  | function (slot : Byte) (num : Byte) (sw : Switch)
  | activate (addr : Byte) (offset : Byte)
  | deactivate (addr : Byte) (offset : Byte)
  | openBus
  | closeBus
  | configure (ctrl : Byte)
  | makeSensor (ctrl : Byte) (bank : Byte) (port : Byte)
  | wait (ctrl : Byte) (bank : Byte) (port : Byte)
  | frameThrottle (addr : DccAddr) (dir : Dir) (speed : BitVec 7) (c : Byte)
  | frameFunction (g : Byte) (addr : DccAddr) (v : Byte) (c : Byte)
  | frameActivate (a : Byte) (o : BitVec 6) (c : Byte)
  | frameDeactivate (a : Byte) (o : BitVec 6) (c : Byte)
  deriving DecidableEq, Repr

/-- What a decoder is given: a host command word, or the bytes of one serial write, b0 first. -/
inductive Code where
  | hcw (w : Word)
  | frame (bytes : List Byte)
  deriving DecidableEq, Repr

/-- Why a code is no instruction. The first two are R74's illegal commands; the others are bytes that
are no frame the block sends (R86 to R88, R91). -/
inductive DecodeError where
  | undefinedOp
  | reservedBits
  | frameLength
  | frameOpcode
  | frameFixedBits
  deriving DecidableEq, Repr

/-- A decoder's answer. -/
inductive Decoded where
  | ok (i : Instr)
  | bad (e : DecodeError)
  deriving DecidableEq, Repr

end Sys2Proof
end

