-- ==== Sys2Proof/Decode.lean ====
section
/-! DEFINITION. The decoder and, after it, the encoder of host command words (30_encoding R70, R71, R74)
and wire frames (R85 to R92), and the constants and bit helpers both use. -/

namespace Sys2Proof

/-- OP_THROTTLE (00_scope R7). -/
def opThrottle : Byte := 0xE4#8

/-- STEP_MODE (R7). -/
def stepMode : Byte := 0x13#8

/-- OP_ACCESSORY (R7). -/
def opAccessory : Byte := 0x52#8

/-- FN_BYTE1 (R7). -/
def fnByte1 : Byte := 0x00#8

/-- XORFOLD (R10): the exclusive-or of all the bytes, 0x00 of none. -/
def xorFold (bytes : List Byte) : Byte := bytes.foldr (fun b acc => b ^^^ acc) 0#8

def Dir.bit : Dir → BitVec 1
  | .forward => 1#1
  | .reverse => 0#1

def Dir.ofBit (b : BitVec 1) : Dir := if b = 1#1 then .forward else .reverse

def Switch.bit : Switch → BitVec 1
  | .on => 1#1
  | .off => 0#1

def Switch.ofBit (b : BitVec 1) : Switch := if b = 1#1 then .on else .off

/-- The address high byte of a frame: zext_8(addr[13:8]) (R86, D41: no flag bits). -/
def addrHi (a : DccAddr) : Byte := (a.extractLsb' 8 6).setWidth 8

/-- The address low byte of a frame: addr[7:0] (R86). -/
def addrLo (a : DccAddr) : Byte := a.extractLsb' 0 8

/-- A train address from its two frame bytes, big-endian (20_memory R58). -/
def addrOf (hi lo : Byte) : DccAddr := hi.extractLsb' 0 6 ++ lo

/-! ### Decoding -/

/-- An instruction whose reserved bits must be 0 (R71, R74). -/
def Decoded.ifZero {n : Nat} (reserved : BitVec n) (i : Instr) : Decoded :=
  if reserved = 0#n then .ok i else .bad .reservedBits

/-- The decoder of host command words: op in [31:24], operands as in R71's table. -/
def decodeHcw (w : Word) : Decoded :=
  match (w.extractLsb' 24 8).toNat with
  | 0x01 => .ifZero (w.extractLsb' 0 24) .openSerial
  | 0x02 => .ifZero (w.extractLsb' 0 24) .closeSerial
  | 0x03 => .ifZero (w.extractLsb' 1 23) (.setDiag (.ofBit (w.extractLsb' 0 1)))
  | 0x10 => .ok (.bindTrain (w.extractLsb' 16 8) (w.extractLsb' 0 16))
  | 0x11 =>
    .ifZero (w.extractLsb' 9 7)
      (.throttle (w.extractLsb' 16 8) (.ofBit (w.extractLsb' 8 1)) (w.extractLsb' 0 8))
  | 0x12 =>
    .ifZero (w.extractLsb' 1 7)
      (.function (w.extractLsb' 16 8) (w.extractLsb' 8 8) (.ofBit (w.extractLsb' 0 1)))
  | 0x13 => .ifZero (w.extractLsb' 16 8) (.activate (w.extractLsb' 8 8) (w.extractLsb' 0 8))
  | 0x14 => .ifZero (w.extractLsb' 16 8) (.deactivate (w.extractLsb' 8 8) (w.extractLsb' 0 8))
  | 0x20 => .ifZero (w.extractLsb' 0 24) .openBus
  | 0x21 => .ifZero (w.extractLsb' 0 24) .closeBus
  | 0x22 => .ifZero (w.extractLsb' 8 16) (.configure (w.extractLsb' 0 8))
  | 0x23 => .ok (.makeSensor (w.extractLsb' 16 8) (w.extractLsb' 8 8) (w.extractLsb' 0 8))
  | 0x24 => .ok (.wait (w.extractLsb' 16 8) (w.extractLsb' 8 8) (w.extractLsb' 0 8))
  | _ => .bad .undefinedOp

/-- A four-byte frame: an accessory frame (R88), ACTIVATE or DEACTIVATE by bit 0 of b2. -/
def decodeFrame4 (b0 b1 b2 b3 : Byte) : Decoded :=
  if b0 ≠ opAccessory then .bad .frameOpcode
  else if b2.extractLsb' 7 1 ≠ 1#1 then .bad .frameFixedBits
  else if b2.extractLsb' 0 1 = 1#1 then .ok (.frameActivate b1 (b2.extractLsb' 1 6) b3)
  else .ok (.frameDeactivate b1 (b2.extractLsb' 1 6) b3)

/-- A six-byte frame: a throttle frame (R86) or a function frame (R87). Which group opcodes exist is a
parameter (FUNC_TABLE); that none is 0xE4 or 0x52 is R8(d). -/
def decodeFrame6 (b0 b1 b2 b3 b4 b5 : Byte) : Decoded :=
  if b2.extractLsb' 6 2 ≠ 0#2 then .bad .frameFixedBits
  else if b0 = opThrottle then
    if b1 = stepMode then
      .ok (.frameThrottle (addrOf b2 b3) (.ofBit (b4.extractLsb' 7 1)) (b4.extractLsb' 0 7) b5)
    else .bad .frameFixedBits
  else if b0 = opAccessory then .bad .frameOpcode
  else if b1 = fnByte1 then .ok (.frameFunction b0 (addrOf b2 b3) b4 b5)
  else .bad .frameFixedBits

/-- The decoder of the bytes of one serial write (R91, R92: the length follows from the first byte).
The checksum byte is an operand; whether it is right is Instr.wellFormed (log 12). -/
def decodeFrame : List Byte → Decoded
  | [b0, b1, b2, b3] => decodeFrame4 b0 b1 b2 b3
  | [b0, b1, b2, b3, b4, b5] => decodeFrame6 b0 b1 b2 b3 b4 b5
  | _ => .bad .frameLength

/-- The decoder, total on every code. -/
def decode : Code → Decoded
  | .hcw w => decodeHcw w
  | .frame bytes => decodeFrame bytes

/-! ### Encoding -/

/-- The bytes of an accessory frame: b2 = `1oooooox` (R88). -/
def accessoryBytes (a : Byte) (o : BitVec 6) (x : BitVec 1) (c : Byte) : List Byte :=
  [opAccessory, a, 1#1 ++ o ++ x, c]

/-- The encoder, from the tables of R71, R86, R87 and R88. -/
def encode : Instr → Code
  | .openSerial => .hcw (0x01#8 ++ 0#24)
  | .closeSerial => .hcw (0x02#8 ++ 0#24)
  | .setDiag en => .hcw (0x03#8 ++ 0#23 ++ en.bit)
  | .bindTrain slot addr => .hcw (0x10#8 ++ slot ++ addr)
  | .throttle slot dir speed => .hcw (0x11#8 ++ slot ++ 0#7 ++ dir.bit ++ speed)
  | .function slot num sw => .hcw (0x12#8 ++ slot ++ num ++ 0#7 ++ sw.bit)
  | .activate addr offset => .hcw (0x13#8 ++ 0#8 ++ addr ++ offset)
  | .deactivate addr offset => .hcw (0x14#8 ++ 0#8 ++ addr ++ offset)
  | .openBus => .hcw (0x20#8 ++ 0#24)
  | .closeBus => .hcw (0x21#8 ++ 0#24)
  | .configure ctrl => .hcw (0x22#8 ++ 0#16 ++ ctrl)
  | .makeSensor ctrl bank port => .hcw (0x23#8 ++ ctrl ++ bank ++ port)
  | .wait ctrl bank port => .hcw (0x24#8 ++ ctrl ++ bank ++ port)
  | .frameThrottle addr dir speed c =>
    .frame [opThrottle, stepMode, addrHi addr, addrLo addr, dir.bit ++ speed, c]
  | .frameFunction g addr v c => .frame [g, fnByte1, addrHi addr, addrLo addr, v, c]
  | .frameActivate a o c => .frame (accessoryBytes a o 1#1 c)
  | .frameDeactivate a o c => .frame (accessoryBytes a o 0#1 c)

/-- The bytes of a code: a frame's own, b0 first; of a command word none, since it is not bytes. -/
def Code.frameBytes : Code → List Byte
  | .hcw _ => []
  | .frame bytes => bytes

/-- How many bits a code has (R92). -/
def Code.bits : Code → Nat
  | .hcw _ => 32
  | .frame bytes => 8 * bytes.length

/-! ### The opcode table's numbering -/

/-- The n bytes of a number, most significant first: the table writes a frame with b0 in its top byte
(the row FRAME_ACTIVATE has 0x52 in bits 31..24). -/
def bytesBE : Nat → Nat → List Byte
  | 0, _ => []
  | n + 1, w => BitVec.ofNat 8 (w / 256 ^ n) :: bytesBE n w

/-- The code a table word stands for. A word of at most 32 bits whose top byte is OP_ACCESSORY is an
accessory frame (no command has op 0x52: R71); every other one is a host command word. A word of 33 to
48 bits is a six-byte frame (log 10). -/
def tableCode (nbits w : Nat) : Option Code :=
  if nbits ≤ 32 then
    if BitVec.ofNat 8 (w / 2 ^ 24) = opAccessory then some (.frame (bytesBE 4 w))
    else some (.hcw (BitVec.ofNat 32 w))
  else if nbits ≤ 48 then some (.frame (bytesBE 6 w))
  else none

def Decoded.toOption : Decoded → Option Instr
  | .ok i => some i
  | .bad _ => none

/-- What the decoder reads from an instruction numbered as spec/opcode_table.json numbers it. -/
def decodeTableWord (nbits w : Nat) : Option Instr :=
  match tableCode nbits w with
  | some code => (decode code).toOption
  | none => none

end Sys2Proof
end

