-- ==== Sys2Proof/WellFormed.lean ====
section
/-! DEFINITION. Well-formed instructions (30_encoding R86 to R90) and well-formed parameter sets
(00_scope R8). -/

namespace Sys2Proof

/-- A frame's last byte is the XOR of the bytes before it (R89). -/
def checksumOk (bytes : List Byte) : Bool := xorFold bytes == 0#8

/-- Every field of a host command is as wide as its place in the word, so every command is well-formed.
A frame is well-formed when its checksum is right (R89), and a function frame's first byte is neither
0xE4 nor 0x52 (R8(d)). -/
def Instr.wellFormed (i : Instr) : Bool :=
  match i with
  | .openSerial => true
  | .closeSerial => true
  | .setDiag _ => true
  | .bindTrain _ _ => true
  | .throttle _ _ _ => true
  | .function _ _ _ => true
  | .activate _ _ => true
  | .deactivate _ _ => true
  | .openBus => true
  | .closeBus => true
  | .configure _ => true
  | .makeSensor _ _ _ => true
  | .wait _ _ _ => true
  | .frameThrottle _ _ _ _ => checksumOk (encode i).frameBytes
  | .frameFunction g _ _ _ =>
    checksumOk (encode i).frameBytes && g != opThrottle && g != opAccessory
  | .frameActivate _ _ _ => checksumOk (encode i).frameBytes
  | .frameDeactivate _ _ _ => checksumOk (encode i).frameBytes

/-- The five offsets of a bank. -/
def BankOffsets.toList (o : BankOffsets) : List Byte := [o.dir, o.inten, o.pullup, o.cap, o.data]

/-- R8(c): rows of one group share its opcode. -/
def Params.groupsAgree (p : Params) : Bool :=
  p.funcTable.toList.all fun r =>
    p.funcTable.toList.all fun q => r.group != q.group || r.groupOpcode == q.groupOpcode

/-- R8(d): no group opcode is 0xE4 or 0x52. -/
def Params.opcodesApart (p : Params) : Bool :=
  p.funcTable.toList.all fun r => r.groupOpcode != opThrottle && r.groupOpcode != opAccessory

/-- R8(e): the ten register offsets are distinct. -/
def Params.offsetsDistinct (p : Params) : Bool := decide (p.offA.toList ++ p.offB.toList).Nodup

/-- R7: 1 ≤ NT ≤ 256 and NP ≥ 1. -/
def Params.countsOk (p : Params) : Bool := 1 ≤ p.nt && p.nt ≤ 256 && 1 ≤ p.np

/-- A parameter set a model may run with (R8; (a) and (b) hold by the types of the fields). -/
def Params.wellFormed (p : Params) : Bool :=
  p.groupsAgree && p.opcodesApart && p.offsetsDistinct && p.countsOk

end Sys2Proof
end

