-- ==== Sys2Proof/Machine/State.lean ====
section
/-! DEFINITION. The state of the block (spec 10_state R21 to R38), the events of its history (00_scope R12,
R14), the reasons a step stops, and the state after reset (R38, 70_reset R230). -/

namespace Sys2Proof.Machine

/-- FS's states (R30). -/
inductive FsSt where
  | idle
  | write
  | settle
  | drain
  deriving DecidableEq, Repr

/-- A bus sequencer's states (R32): the CONFIGURE steps (41_sensor R145), then the WAIT steps
(R151 to R157). -/
inductive BsSt where
  | idle
  | cfgDirA
  | cfgDirB
  | cfgPuA
  | cfgIeA
  | wUnlatch
  | wIoffRd
  | wIoffWr
  | wPollRd
  | wSleep
  | wIonRd
  | wIonWr
  deriving DecidableEq, Repr

/-- A train slot (R25). -/
structure Slot where
  bound : Bool
  addr  : DccAddr
  grp   : Vector Byte 3
  deriving DecidableEq, Repr

/-- The registers of the framer sequencer (R30). -/
structure Fs where
  st      : FsSt
  buf     : List Byte
  attempt : Nat
  owner   : CallerId
  deriving DecidableEq, Repr

/-- The registers of a bus sequencer (R32). -/
structure Bs where
  st    : BsSt
  dev   : Byte
  cap   : Byte
  ind   : Byte
  mask  : Byte
  tmp   : Byte
  owner : CallerId
  deriving DecidableEq, Repr

/-- What the block holds for a caller with an outstanding command (R34): the command word while it is
held (30_encoding R73), nothing more while a sequencer runs it, and then its pending result word. A
caller with nothing outstanding is not listed. -/
inductive CallerSt where
  | held (w : Word)
  | running
  | done (r : Word)
  deriving DecidableEq, Repr

/-- Who performs an event (R6, R14). No rule names the agent of SerOpen, SerClose, BusOpen and BusClose: the
model logs the issuing caller (DESIGN CHOICE, log 23). -/
inductive Agent where
  | host (c : CallerId)
  | fs
  | bs (j : Nat)
  deriving DecidableEq, Repr

/-- The primitives of R12 as they stand in the history, with their arguments and the answer of the
transactions. A blocked transaction appends no event. -/
inductive Event where
  | serOpen (deviceId baud : Nat) (r : Reply Unit)
  | serClose (r : Reply Unit)
  | busOpen (r : Reply Unit)
  | busClose (r : Reply Unit)
  | serWrite (bytes : List Byte) (r : Reply Unit)
  | settle (ms : Nat)
  | serDrain (r : Reply (List Byte))
  | busRead (dev off : Byte) (r : Reply Byte)
  | busWrite (dev off v : Byte) (r : Reply Unit)
  | sleep (ms : Nat)
  | diagTx (bytes : List Byte)
  | diagRx (b : Byte)
  deriving DecidableEq, Repr

/-- One entry of the history (R14). -/
structure Entry where
  agent : Agent
  event : Event
  deriving DecidableEq, Repr

/-- The codes of a result word (30_encoding R80). -/
inductive ResultCode where
  | ok
  | transportError
  | busError
  | protocolError
  | invalidArgument
  | illegalCommand
  deriving DecidableEq, Repr

/-- The registers R38 marks 'no value'. -/
inductive NoValueReg where
  | slotAddr
  | slotGrp
  | fsBuf
  | fsAttempt
  | fsOwner
  | bsDev
  | bsCap
  | bsInd
  | bsMask
  | bsTmp
  | bsOwner
  deriving DecidableEq, Repr

/-- Why the machine stops with a fault. -/
inductive Fault where
  /-- A register that has no value is read ("A model must fault on any read of such a register", R38;
  93_implementation_defined I18, D26). Raised by the readers of those registers in Machine/Ops.lean. Safe:
  the model stops. No rule of the spec performs such a read, and no step of the machine does. -/
  | noValue (r : NoValueReg)
  deriving DecidableEq, Repr

/-- Why a step is refused. -/
inductive Refusal where
  /-- An instruction that has no meaning yet: exec's arm names it. Safe. -/
  | notModelled (mnemonic : String)
  /-- The parameter set breaks R8 ("A model must reject a parameter set that breaks any of these
  conditions"). Raised by step. Safe. -/
  | parametersIllFormed
  /-- A wire frame is executed while FS is not at the WRITE of that frame: it does not go out then
  (20_memory R51, 40 R120), so the spec gives it no effect. Raised by the four frames. Safe. -/
  | frameNotDue
  deriving DecidableEq, Repr

/-- The state of the machine. The last four fields are the model's own (log 3, 4): the turns of the
environment still to come, how many turns were drawn from the free values, the oracle's answers for the
step being taken, and the caller whose command is being accepted. -/
structure State where
  params     : Params
  serialOpen : Bool
  busOpen    : Bool
  diag       : Bool
  slots      : List Slot
  fs         : Fs
  bs         : List Bs
  callers    : List (CallerId × CallerSt)
  history    : List Entry
  results    : List (CallerId × Word)
  script     : List Turn
  tick       : Nat
  draw       : Draw
  issuer     : CallerId
  deriving DecidableEq, Repr

/-- A slot after reset: unbound (R38). The other fields have no reset value in the spec; the zeros are
the model's (DESIGN CHOICE, log 2), and unreadable while the slot is unbound. -/
def Slot.reset : Slot where
  bound := false
  addr  := 0#14
  grp   := #v[0#8, 0#8, 0#8]

/-- FS after reset: IDLE (R38). The other fields: DESIGN CHOICE, log 2, unreadable while IDLE. -/
def Fs.reset : Fs where
  st      := .idle
  buf     := []
  attempt := 0
  owner   := 0

/-- A bus sequencer after reset: IDLE (R38). The other fields: DESIGN CHOICE, log 2, unreadable while
IDLE. -/
def Bs.reset : Bs where
  st    := .idle
  dev   := 0#8
  cap   := 0#8
  ind   := 0#8
  mask  := 0#8
  tmp   := 0#8
  owner := 0

/-- The machine right after reset with parameter set p (R38): links closed, diagnostics off, every slot
unbound, every sequencer IDLE, no command outstanding. -/
def State.resetWith (p : Params) : State where
  params     := p
  serialOpen := false
  busOpen    := false
  diag       := false
  slots      := List.replicate p.nt Slot.reset
  fs         := Fs.reset
  bs         := List.replicate p.np Bs.reset
  callers    := []
  history    := []
  results    := []
  script     := []
  tick       := 0
  draw       := Config.noDraw
  issuer     := 0

/-- The machine right after reset, with the reference parameters (PRESUMED, log 1). -/
def State.reset : State := State.resetWith Config.reference

end Sys2Proof.Machine
end

