-- ==== Sys2Proof/Machine/Ops.lean ====
section
/-! DEFINITION. The named operations: the readers of the registers that may have no value (10_state R38), the
caller table (R34), the history (00_scope R14), the result word and how a command completes or ends in an
error (R13, 30_encoding R80, 60_exceptions R203), the ends of a sequencer's command (40 R120, 41 R142),
and the reset event (70_reset R230). -/

namespace Sys2Proof.Machine

/-- What a step answers. -/
abbrev Result := Host.Outcome State Fault Refusal

/-! ### Registers that may have no value (R38) -/

/-- A read of a register that has a value only when `has` holds; otherwise the stop the spec orders: "A model
must fault on any read of such a register, rather than return zero" (R38; the treatment `fault` of I18; "a read
faults", D26). The readers that follow are its only users, and no step of the machine meets the fault. -/
def readIf {α : Type} (has : Bool) (r : NoValueReg) (v : α) : Except Fault α :=
  if has then .ok v else .error (.noValue r)

/-- Go on with what a read gave, or stop with its fault. -/
def reading {α : Type} (v : Except Fault α) (k : α → Result) : Result :=
  match v with
  | .ok a => k a
  | .error f => .fault f

def Slot.readAddr (sl : Slot) : Except Fault DccAddr := readIf sl.bound .slotAddr sl.addr

def Slot.readGrp (sl : Slot) (g : Fin 3) : Except Fault Byte := readIf sl.bound .slotGrp (sl.grp.get g)

/-- FS is busy (R30). -/
def Fs.busy (f : Fs) : Bool := f.st ≠ .idle

def Fs.readBuf (f : Fs) : Except Fault (List Byte) := readIf f.busy .fsBuf f.buf

def Fs.readAttempt (f : Fs) : Except Fault Nat := readIf f.busy .fsAttempt f.attempt

def Fs.readOwner (f : Fs) : Except Fault CallerId := readIf f.busy .fsOwner f.owner

/-- A bus sequencer is busy (R32). -/
def Bs.busy (b : Bs) : Bool := b.st ≠ .idle

/-- The sequencer runs a WAIT: its cap, ind and mask registers have been written (41_sensor R150). -/
def BsSt.inWait : BsSt → Bool
  | .wUnlatch | .wIoffRd | .wIoffWr | .wPollRd | .wSleep | .wIonRd | .wIonWr => true
  | .idle | .cfgDirA | .cfgDirB | .cfgPuA | .cfgIeA => false

/-- The sequencer's WAIT has read the indicator register: tmp has been written (R152). -/
def BsSt.hasTmp : BsSt → Bool
  | .wIoffWr | .wPollRd | .wSleep | .wIonRd | .wIonWr => true
  | .idle | .cfgDirA | .cfgDirB | .cfgPuA | .cfgIeA | .wUnlatch | .wIoffRd => false

def Bs.readDev (b : Bs) : Except Fault Byte := readIf b.busy .bsDev b.dev

def Bs.readOwner (b : Bs) : Except Fault CallerId := readIf b.busy .bsOwner b.owner

def Bs.readCap (b : Bs) : Except Fault Byte := readIf b.st.inWait .bsCap b.cap

def Bs.readInd (b : Bs) : Except Fault Byte := readIf b.st.inWait .bsInd b.ind

def Bs.readMask (b : Bs) : Except Fault Byte := readIf b.st.inWait .bsMask b.mask

def Bs.readTmp (b : Bs) : Except Fault Byte := readIf b.st.hasTmp .bsTmp b.tmp

/-! ### The caller table -/

/-- What is outstanding for a caller; none when nothing is (R34). -/
def Callers.get (c : CallerId) : List (CallerId × CallerSt) → Option CallerSt
  | [] => none
  | (d, v) :: rest => if c = d then some v else Callers.get c rest

/-- Put an entry at its place by caller id. -/
def Callers.put (c : CallerId) (v : CallerSt) : List (CallerId × CallerSt) → List (CallerId × CallerSt)
  | [] => [(c, v)]
  | (d, u) :: rest =>
    if c < d then (c, v) :: (d, u) :: rest
    else if c = d then (c, v) :: rest
    else (d, u) :: Callers.put c v rest

/-- Remove a caller's entry: nothing is outstanding. -/
def Callers.erase (c : CallerId) : List (CallerId × CallerSt) → List (CallerId × CallerSt)
  | [] => []
  | (d, u) :: rest => if c = d then rest else (d, u) :: Callers.erase c rest

/-- The table's one canonical form: caller ids strictly rising. -/
def Callers.wf (t : List (CallerId × CallerSt)) : Bool :=
  decide ((t.map Prod.fst).Pairwise (· < ·))

/-- What is outstanding for caller c. -/
def State.caller (s : State) (c : CallerId) : Option CallerSt := Callers.get c s.callers

def State.setCaller (c : CallerId) (v : CallerSt) (s : State) : State :=
  { s with callers := Callers.put c v s.callers }

def State.clearCaller (c : CallerId) (s : State) : State :=
  { s with callers := Callers.erase c s.callers }

/-! ### The history -/

/-- Append one event (R14). -/
def State.log (a : Agent) (e : Event) (s : State) : State :=
  { s with history := s.history ++ [⟨a, e⟩] }

/-- DiagTx of a frame, when diagnostics are on (40 R121). -/
def State.echoTx (bytes : List Byte) (s : State) : State :=
  if s.diag then s.log .fs (.diagTx bytes) else s

/-- One DiagRx per drained byte, in order, when diagnostics are on (R121). -/
def State.echoRx (rx : List Byte) (s : State) : State :=
  if s.diag then { s with history := s.history ++ rx.map fun b => ⟨.fs, .diagRx b⟩ } else s

/-! ### Slots and sequencers -/

def State.setSlot (i : Nat) (sl : Slot) (s : State) : State := { s with slots := s.slots.set i sl }

def State.setFs (f : Fs) (s : State) : State := { s with fs := f }

/-- `fs.st <- v`. -/
def State.setFsSt (v : FsSt) (s : State) : State := s.setFs { s.fs with st := v }

def State.setSerialOpen (v : Bool) (s : State) : State := { s with serialOpen := v }

def State.setBusOpen (v : Bool) (s : State) : State := { s with busOpen := v }

def State.setDiag (v : Bool) (s : State) : State := { s with diag := v }

/-- Change the registers of BS[j]. -/
def State.modifyBs (j : Nat) (f : Bs → Bs) (s : State) : State := { s with bs := s.bs.modify j f }

/-- `bs[j].st <- v`. -/
def State.setBsSt (j : Nat) (v : BsSt) (s : State) : State := s.modifyBs j fun b => { b with st := v }

/-- `bs[j].tmp <- v`. -/
def State.setBsTmp (j : Nat) (v : Byte) (s : State) : State := s.modifyBs j fun b => { b with tmp := v }

/-! ### Results -/

/-- A result code's number (30_encoding R80). -/
def ResultCode.byte : ResultCode → Byte
  | .ok => 0x00#8
  | .transportError => 0x01#8
  | .busError => 0x02#8
  | .protocolError => 0x03#8
  | .invalidArgument => 0x04#8
  | .illegalCommand => 0x05#8

/-- The result word: code in [7:0], data in [15:8], zeros above (R80). -/
def hrw (code : ResultCode) (data : Byte) : Word := 0#16 ++ data ++ code.byte

/-- The caller whose command the step accepts. -/
def State.setIssuer (c : CallerId) (s : State) : State := { s with issuer := c }

/-- Deliver a result word to a caller: it becomes the caller's pending result (R34). -/
def State.deliver (c : CallerId) (code : ResultCode) (data : Byte) (s : State) : State :=
  s.setCaller c (.done (hrw code data))

/-- The command being accepted completes in its acceptance step (R73). -/
def State.complete (code : ResultCode) (data : Byte) (s : State) : State :=
  s.deliver s.issuer code data

/-- `raise E` in an acceptance step (00_scope R13): the command ends with code E, and nothing written
before is undone. -/
def State.raise (code : ResultCode) (s : State) : State := s.complete code 0x00#8

/-- The command being accepted is now run by a sequencer. -/
def State.start (s : State) : State := s.setCaller s.issuer .running

/-- FINISH(c) of FS (40 R120). -/
def State.finishFs (owner : CallerId) (code : ResultCode) (s : State) : State :=
  (s.deliver owner code 0x00#8).setFsSt .idle

/-- FINISH_BS(j, c) (41_sensor R142). -/
def State.finishBs (j : Nat) (owner : CallerId) (code : ResultCode) (s : State) : State :=
  (s.deliver owner code 0x00#8).setBsSt j .idle

/-! ### The host's side and reset -/

/-- Caller c issues a command word. It has no such move while a command of its own is outstanding
(R34, D44; log 6). -/
def State.issue (c : CallerId) (w : Word) (s : State) : State :=
  match s.caller c with
  | none => s.setCaller c (.held w)
  | some _ => s

/-- Caller c receives its pending result word; its next command may then be issued (R34, 60 R204).
Without a pending result there is no such move (log 6). -/
def State.receive (c : CallerId) (s : State) : State :=
  match s.caller c with
  | some (.done r) => { s.clearCaller c with results := s.results ++ [(c, r)] }
  | some (.held _) => s
  | some .running => s
  | none => s

/-- The reset event: every piece of block state takes its reset value, no transaction is performed, and
what has been observed so far stays (R38, R230, R231; log 8). -/
def State.resetEvent (s : State) : State :=
  { State.resetWith s.params with
    history := s.history
    results := s.results
    script  := s.script
    tick    := s.tick
    draw    := s.draw
    issuer  := s.issuer }

/-- The turn taken next: the script's head, or past its end the free values (log 3). -/
def State.nextTurn (s : State) : Turn :=
  match s.script with
  | t :: _ => t
  | [] => ⟨Config.freeMove s.tick, Config.freeDraw s.tick⟩

/-- The state in which the next turn's step runs: the turn is taken and its draw is set. -/
def State.takeTurn (s : State) : State :=
  match s.script with
  | t :: rest => { s with script := rest, draw := t.draw }
  | [] => { s with tick := s.tick + 1, draw := Config.freeDraw s.tick }

/-- A caller id that nothing is outstanding for, when the table is in its canonical form: one past the
last listed. -/
def State.freshCaller (s : State) : CallerId :=
  match s.callers.getLast? with
  | some (c, _) => c + 1
  | none => 0

end Sys2Proof.Machine
end

