-- ==== Sys2Proof/Machine/Operands.lean ====
section
/-! DEFINITION. The constants of 00_scope R7, the parameter tables as the rules read them, every operand's
valid values (30_encoding R75), and the bodies of the wire frames (R85 to R91, 40 R118). -/

namespace Sys2Proof

/-- MAX_ATTEMPTS (R7). -/
def maxAttempts : Nat := 5

/-- ENQ, the acknowledgment byte (R7). -/
def enq : Byte := 0x05#8

/-- SETTLE_MS, the label of a Settle event (R7). -/
def settleMs : Nat := 100

/-- POLL_MS, the label of a Sleep event (R7). -/
def pollMs : Nat := 1000

/-! ### Parameter tables -/

/-- The offsets of one bank. -/
def Params.bankOffsets (p : Params) (bank : Bank) : BankOffsets :=
  match bank with
  | .a => p.offA
  | .b => p.offB

/-- REG_OFF[bank][kind] (20_memory R54). -/
def Params.regOff (p : Params) (bank : Bank) (kind : RegKind) : Byte :=
  match kind with
  | .dir => (p.bankOffsets bank).dir
  | .inten => (p.bankOffsets bank).inten
  | .pullup => (p.bankOffsets bank).pullup
  | .cap => (p.bankOffsets bank).cap
  | .data => (p.bankOffsets bank).data

/-- FUNC_TABLE[num]; none "if num exceeds the table", num > 12 (40 R110). -/
def Params.funcRow (p : Params) (num : Byte) : Option FuncRow := p.funcTable[num.toNat]?

/-! ### Operand checks (R75) -/

/-- BIND_TRAIN's `addr`: valid when addr ≤ 0x3FFF; the DCC address is its low 14 bits (40 R103). -/
def dccAddr? (addr : BitVec 16) : Option DccAddr :=
  if addr ≤ 0x3FFF#16 then some (addr.extractLsb' 0 14) else none

/-- `speed` is valid when speed ≤ 127 (R75). -/
def speedOk (speed : Byte) : Bool := speed ≤ 127#8

/-- `bank`: 0x41 is bank A, 0x42 is bank B, every other value is invalid (R75). -/
def bank? (bank : Byte) : Option Bank :=
  if bank = 0x41#8 then some .a
  else if bank = 0x42#8 then some .b
  else none

/-- PORT_MASK[port] = 1 << (port-1) for port in 1..8; no other port is valid (R75, 41_sensor R149). -/
def portMask? (port : Byte) : Option Byte :=
  if 1#8 ≤ port ∧ port ≤ 8#8 then some (1#8 <<< (port.toNat - 1)) else none

/-! ### Frame bodies -/

/-- A frame: a body and its checksum (R85, R89, 40 R118). -/
def frameOf (body : List Byte) : List Byte := body ++ [xorFold body]

/-- The body of THROTTLE (40 R105). -/
def throttleBody (a : DccAddr) (dir : Dir) (speed : Byte) : List Byte :=
  [opThrottle, stepMode, addrHi a, addrLo a, (dir.bit.setWidth 8 <<< 7) ||| (speed &&& 0x7F#8)]

/-- The body of FUNCTION: the group's opcode and its whole updated byte (40 R110). -/
def functionBody (gop : Byte) (a : DccAddr) (v : Byte) : List Byte :=
  [gop, fnByte1, addrHi a, addrLo a, v]

/-- The body of ACTIVATE, x = 1, and DEACTIVATE, x = 0 (30_encoding R88). -/
def accessoryBody (addr offset x : Byte) : List Byte :=
  [opAccessory, addr, ((offset ||| 0x80#8) &&& 0xFE#8) ||| x]

/-- The updated group byte: `s | on` for ON, `s & ~off` for OFF (40 R110, R111). -/
def groupByte (row : FuncRow) (sw : Switch) (v : Byte) : Byte :=
  match sw with
  | .on => v ||| row.onMask
  | .off => v &&& ~~~row.offMask

/-! ### Reading the outbound stream -/

/-- The frames a reader of the serial link tells apart (30_encoding R91). -/
inductive FrameKind where
  | accessory
  | throttle
  | function (gop : Byte)
  deriving DecidableEq, Repr

/-- Frame decoding for a reader of the outbound stream (R91). -/
def Params.classify (p : Params) (bytes : List Byte) : Option FrameKind :=
  if bytes[0]? = some opAccessory ∧ bytes.length = 4 then some .accessory
  else if bytes[0]? = some opThrottle ∧ bytes[1]? = some stepMode ∧ bytes.length = 6 then
    some .throttle
  else
    match p.funcTable.toList.find? fun r => bytes[0]? == some r.groupOpcode with
    | some r =>
      if bytes[1]? = some fnByte1 ∧ bytes.length = 6 then some (.function r.groupOpcode) else none
    | none => none

end Sys2Proof

namespace Sys2Proof.Machine

/-- `slot` of a send: valid when slot < NT and the slot is bound (R75). The slot file holds NT slots
(Safety.lean, State.shapeOk); a number past its end is out of range (log 15). -/
def State.boundSlot (s : State) (slot : Byte) : Option Slot :=
  if slot.toNat < s.params.nt then
    match s.slots[slot.toNat]? with
    | some sl => if sl.bound then some sl else none
    | none => none
  else none

end Sys2Proof.Machine
end

