-- ==== Sys2Proof/Machine/Flags.lean ====
section
/-! DEFINITION. The command classes: the resource a command needs and the connection flag it checks
(30_encoding R72, R73; 60_exceptions R201). The block has no condition flags (10_state R21). -/

namespace Sys2Proof.Machine

/-- FS is idle: the resource of a serial command. -/
def State.fsIdle (s : State) : Bool := s.fs.st = .idle

/-- Every bus sequencer is idle: the resource of CLOSE_BUS. -/
def State.busAllIdle (s : State) : Bool := s.bs.all fun b => b.st = .idle

/-- The lowest idle bus sequencer: the resource of a bus command. -/
def State.lowestIdleBs (s : State) : Option Nat := s.bs.findIdx? fun b => b.st = .idle

/-- A command whose resource is not free is not accepted: the issuing caller holds, and nothing
changes (R73). -/
def acceptWhen (free : Bool) (s : State) (k : Result) : Result := if free then k else .next s

/-- A serial command is accepted only while FS is idle (R73). -/
def serialClass (s : State) (k : Result) : Result := acceptWhen s.fsIdle s k

/-- CLOSE_BUS is accepted only while every bus sequencer is idle (R73). -/
def busAllClass (s : State) (k : Result) : Result := acceptWhen s.busAllIdle s k

/-- A bus command takes the lowest idle bus sequencer, and is held while there is none (R73). -/
def busClass (s : State) (k : Nat → Result) : Result :=
  match s.lowestIdleBs with
  | some j => k j
  | none => .next s

/-- The connection check of a serial command other than OPEN (R72, R201 item 3). -/
def whenSerialOpen (s : State) (k : Result) : Result :=
  if s.serialOpen then k else .next (s.raise .transportError)

/-- The connection check of a bus command (R72, R201 item 3). -/
def whenBusOpen (s : State) (k : Result) : Result :=
  if s.busOpen then k else .next (s.raise .busError)

end Sys2Proof.Machine
end

