-- ==== Sys2Proof/Machine/Sensor.lean ====
section
/-! DEFINITION. The commands of unit S: OPEN_BUS, CLOSE_BUS, CONFIGURE, MAKE_SENSOR and WAIT
(41_sensor R140 to R150). Each meaning is the command's acceptance step, for the caller `issuer`;
CONFIGURE and WAIT go on as steps of a bus sequencer (Machine/BusSeq.lean). -/

namespace Sys2Proof.Machine

/-- OPEN_BUS (R140). That the event BusOpen is the issuing caller's is the model's choice (log 23). -/
def execOpenBus (s : State) : Result :=
  .next (
    if s.busOpen then s.raise .busError
    else
      match s.draw.life with
      | .fail => (s.log (.host s.issuer) (.busOpen .fail)).raise .busError
      | .ok _ =>
        ((s.log (.host s.issuer) (.busOpen (.ok ()))).setBusOpen true).complete .ok 0x00#8)

/-- CLOSE_BUS: the flag is cleared on a failed close too (R141, D13). That the event BusClose is the issuing
caller's is the model's choice (log 23). -/
def execCloseBus (s : State) : Result :=
  busAllClass s
    (whenBusOpen s
      (.next (
        match s.draw.life with
        | .fail => ((s.log (.host s.issuer) (.busClose .fail)).setBusOpen false).raise .busError
        | .ok _ =>
          ((s.log (.host s.issuer) (.busClose (.ok ()))).setBusOpen false).complete .ok 0x00#8)))

/-- CONFIGURE, accepted on the lowest idle sequencer (R145). -/
def execConfigure (ctrl : Byte) (s : State) : Result :=
  busClass s fun j =>
    whenBusOpen s
      (.next (s.modifyBs j fun b => { b with dev := ctrl, owner := s.issuer, st := .cfgDirA }).start)

/-- MAKE_SENSOR: the operands are checked and the mask is returned; no state is kept (R148). -/
def execMakeSensor (_ctrl : Byte) (bank : Byte) (port : Byte) (s : State) : Result :=
  .next (
    match portMask? port with
    | none => s.raise .invalidArgument
    | some m =>
      match bank? bank with
      | none => s.raise .invalidArgument
      | some _ => s.complete .ok m)

/-- WAIT, accepted on the lowest idle sequencer; the indicator register is bank B's DATA for sensors of
both banks (R150, D19). -/
def execWait (ctrl : Byte) (bank : Byte) (port : Byte) (s : State) : Result :=
  busClass s fun j =>
    match portMask? port with
    | none => .next (s.raise .invalidArgument)
    | some m =>
      match bank? bank with
      | none => .next (s.raise .invalidArgument)
      | some side =>
        whenBusOpen s
          (.next (s.modifyBs j fun q =>
            { q with
              dev := ctrl
              cap := s.params.regOff side .cap
              ind := s.params.regOff .b .data
              mask := m
              owner := s.issuer
              st := .wUnlatch }).start)

end Sys2Proof.Machine
end

