-- ==== Sys2Proof/Machine/BusSeq.lean ====
section
/-! DEFINITION. The steps of a bus sequencer: BUS_STEP (41_sensor R142), the four writes of CONFIGURE (R145)
and the steps of WAIT (R151 to R157). -/

namespace Sys2Proof.Machine

/-- BUS_STEP around a transaction of BS[j] that answers r and stands in the history as `ev`: on a lost
bus the command ends with BusError and no transaction; a blocked one changes nothing; a failed one
closes the bus and ends the command; a completed one is logged and `k` goes on (R142). -/
def busStep {α : Type} (j : Nat) (owner : CallerId) (r : Answer α) (ev : Reply α → Event)
    (k : α → State → State) (s : State) : State :=
  if s.busOpen then
    match r with
    | .blocked => s
    | .fail => ((s.log (.bs j) (ev .fail)).setBusOpen false).finishBs j owner .busError
    | .ok v => k v (s.log (.bs j) (ev (.ok v)))
  else s.finishBs j owner .busError

/-- BusRead(dev, off) under BUS_STEP. -/
def busRead (j : Nat) (owner : CallerId) (dev off : Byte) (k : Byte → State → State) (s : State) : State :=
  busStep j owner s.draw.read (.busRead dev off) k s

/-- BusWrite(dev, off, v) under BUS_STEP. -/
def busWrite (j : Nat) (owner : CallerId) (dev off v : Byte) (k : State → State) (s : State) : State :=
  busStep j owner s.draw.write (.busWrite dev off v) (fun _ => k) s

/-- The owner and the device every step of a busy sequencer reads. -/
def withDev (b : Bs) (k : CallerId → Byte → Result) : Result :=
  reading b.readOwner fun owner => reading b.readDev fun dev => k owner dev

/-- CFG_DIR_A (R145). -/
def bsCfgDirA (j : Nat) (b : Bs) (s : State) : Result :=
  withDev b fun owner dev =>
    .next (busWrite j owner dev (s.params.regOff .a .dir) s.params.cfgDirAIn
      (State.setBsSt j .cfgDirB) s)

/-- CFG_DIR_B (R145). -/
def bsCfgDirB (j : Nat) (b : Bs) (s : State) : Result :=
  withDev b fun owner dev =>
    .next (busWrite j owner dev (s.params.regOff .b .dir) s.params.cfgDirBOut
      (State.setBsSt j .cfgPuA) s)

/-- CFG_PU_A (R145). -/
def bsCfgPuA (j : Nat) (b : Bs) (s : State) : Result :=
  withDev b fun owner dev =>
    .next (busWrite j owner dev (s.params.regOff .a .pullup) s.params.cfgPullupAAll
      (State.setBsSt j .cfgIeA) s)

/-- CFG_IE_A, the last of the four writes (R145). -/
def bsCfgIeA (j : Nat) (b : Bs) (s : State) : Result :=
  withDev b fun owner dev =>
    .next (busWrite j owner dev (s.params.regOff .a .inten) s.params.cfgIntenAAll
      (State.finishBs j owner .ok) s)

/-- W_UNLATCH: the CAP register is read for its side effect, the value discarded (R151). -/
def bsUnlatch (j : Nat) (b : Bs) (s : State) : Result :=
  withDev b fun owner dev =>
    reading b.readCap fun cap =>
      .next (busRead j owner dev cap (fun _ => State.setBsSt j .wIoffRd) s)

/-- W_IOFF_RD (R152). -/
def bsIoffRd (j : Nat) (b : Bs) (s : State) : Result :=
  withDev b fun owner dev =>
    reading b.readInd fun ind =>
      .next (busRead j owner dev ind (fun v q => (q.setBsTmp j v).setBsSt j .wIoffWr) s)

/-- W_IOFF_WR: the indicator bit is cleared, the other bits written back as read (R153). -/
def bsIoffWr (j : Nat) (b : Bs) (s : State) : Result :=
  withDev b fun owner dev =>
    reading b.readInd fun ind =>
      reading b.readTmp fun tmp =>
        reading b.readMask fun mask =>
          .next (busWrite j owner dev ind (tmp &&& ~~~mask) (State.setBsSt j .wPollRd) s)

/-- W_POLL_RD: a set bit means not yet triggered, a clear bit triggered (R154). -/
def bsPollRd (j : Nat) (b : Bs) (s : State) : Result :=
  withDev b fun owner dev =>
    reading b.readCap fun cap =>
      reading b.readMask fun mask =>
        .next (busRead j owner dev cap
          (fun v q => (q.setBsTmp j v).setBsSt j (if v &&& mask ≠ 0x00#8 then .wSleep else .wIonRd)) s)

/-- W_SLEEP: always completes and touches no bus (R155, D48). -/
def bsSleep (j : Nat) (s : State) : Result :=
  .next ((s.log (.bs j) (.sleep pollMs)).setBsSt j .wPollRd)

/-- W_ION_RD: the indicator register is read afresh (R156). -/
def bsIonRd (j : Nat) (b : Bs) (s : State) : Result :=
  withDev b fun owner dev =>
    reading b.readInd fun ind =>
      .next (busRead j owner dev ind (fun v q => (q.setBsTmp j v).setBsSt j .wIonWr) s)

/-- W_ION_WR: the indicator bit is set and the command ends (R157). -/
def bsIonWr (j : Nat) (b : Bs) (s : State) : Result :=
  withDev b fun owner dev =>
    reading b.readInd fun ind =>
      reading b.readTmp fun tmp =>
        reading b.readMask fun mask =>
          .next (busWrite j owner dev ind (tmp ||| mask) (State.finishBs j owner .ok) s)

/-- The one step of BS[j], given its registers (10_state R21, R32). An idle sequencer has none. -/
def bsAct (j : Nat) (b : Bs) (s : State) : Result :=
  match b.st with
  | .idle => .next s
  | .cfgDirA => bsCfgDirA j b s
  | .cfgDirB => bsCfgDirB j b s
  | .cfgPuA => bsCfgPuA j b s
  | .cfgIeA => bsCfgIeA j b s
  | .wUnlatch => bsUnlatch j b s
  | .wIoffRd => bsIoffRd j b s
  | .wIoffWr => bsIoffWr j b s
  | .wPollRd => bsPollRd j b s
  | .wSleep => bsSleep j s
  | .wIonRd => bsIonRd j b s
  | .wIonWr => bsIonWr j b s

/-- A turn of BS[j]. There is no sequencer past NP - 1, and so no such step (log 6). -/
def bsTurn (j : Nat) (s : State) : Result :=
  match s.bs[j]? with
  | some b => bsAct j b s
  | none => .next s

end Sys2Proof.Machine
end

