-- ==== Sys2Proof/Machine/Framer.lean ====
section
/-! DEFINITION. The framer sequencer: START_TX (40_command R124), its three transactions (R120 to R123) and the
wire frames as the frames its WRITE sends (30_encoding R86 to R88, 20_memory R51). -/

namespace Sys2Proof.Machine

/-- START_TX(body): the frame is fixed, and FS is at its first WRITE for the issuing caller (R124). -/
def startTx (body : List Byte) (s : State) : State :=
  (s.setFs { st := .write, buf := frameOf body, attempt := 0, owner := s.issuer }).start

/-- What a SerWrite of the frame answers and does: a blocked one changes nothing, a failed one closes the
link and ends the send, a completed one is echoed when diagnostics are on (R120, R121). -/
def fsWritten (owner : CallerId) (buf : List Byte) (s : State) : State :=
  match s.draw.write with
  | .blocked => s
  | .fail => ((s.log .fs (.serWrite buf .fail)).setSerialOpen false).finishFs owner .transportError
  | .ok _ => ((s.log .fs (.serWrite buf (.ok ()))).echoTx buf).setFsSt .settle

/-- WRITE: one SerWrite of fs.buf, the whole frame (R120). -/
def fsWrite (s : State) : Result :=
  reading s.fs.readOwner fun owner =>
    reading s.fs.readBuf fun buf => .next (fsWritten owner buf s)

/-- SETTLE: always completes (R120, D48). -/
def fsSettle (s : State) : State := (s.log .fs (.settle settleMs)).setFsSt .drain

/-- The end of an attempt, n attempts having gone before it without acknowledgment: OK when some drained
byte is ENQ (R123), another attempt while fewer than MAX_ATTEMPTS have been made, else ProtocolError. -/
def fsAttemptDone (owner : CallerId) (n : Nat) (rx : List Byte) (s : State) : State :=
  if enq ∈ rx then s.finishFs owner .ok
  else
    let counted := s.setFs { s.fs with attempt := n + 1 }
    if n + 1 < maxAttempts then counted.setFsSt .write
    else counted.finishFs owner .protocolError

/-- What a SerDrain answers and does: every drained byte is echoed when diagnostics are on, before the
bytes decide the attempt (R120, R121). -/
def fsDrained (owner : CallerId) (n : Nat) (s : State) : State :=
  match s.draw.drain with
  | .blocked => s
  | .fail => ((s.log .fs (.serDrain .fail)).setSerialOpen false).finishFs owner .transportError
  | .ok rx => fsAttemptDone owner n rx ((s.log .fs (.serDrain (.ok rx))).echoRx rx)

/-- DRAIN: every byte available is drained and inspected (R120). -/
def fsDrain (s : State) : Result :=
  reading s.fs.readOwner fun owner =>
    reading s.fs.readAttempt fun n => .next (fsDrained owner n s)

/-- A wire frame goes out as FS's WRITE transaction of the frame in fs.buf, and in no other way
(20_memory R51, 70_reset R242; log 9). -/
def sendFrame (bytes : List Byte) (s : State) : Result :=
  if s.fs.st = .write ∧ s.fs.buf = bytes then fsWrite s else .refused .frameNotDue

/-- FRAME_THROTTLE (30_encoding R86, 40 R105, R120). -/
def execFrameThrottle (addr : DccAddr) (dir : Dir) (speed : BitVec 7) (c : Byte) (s : State) : Result :=
  sendFrame (encode (.frameThrottle addr dir speed c)).frameBytes s

/-- FRAME_FUNCTION (30_encoding R87, 40 R110, R120). -/
def execFrameFunction (g : Byte) (addr : DccAddr) (v : Byte) (c : Byte) (s : State) : Result :=
  sendFrame (encode (.frameFunction g addr v c)).frameBytes s

/-- FRAME_ACTIVATE (30_encoding R88, 40 R114, R120). -/
def execFrameActivate (a : Byte) (o : BitVec 6) (c : Byte) (s : State) : Result :=
  sendFrame (encode (.frameActivate a o c)).frameBytes s

/-- FRAME_DEACTIVATE (30_encoding R88, 40 R115, R120). -/
def execFrameDeactivate (a : Byte) (o : BitVec 6) (c : Byte) (s : State) : Result :=
  sendFrame (encode (.frameDeactivate a o c)).frameBytes s

end Sys2Proof.Machine
end

