-- ==== Sys2Proof/Machine/Commands.lean ====
section
/-! DEFINITION. The commands of unit F: OPEN, CLOSE, SET_DIAG, BIND_TRAIN and the four sends
(40_command R100 to R115). Each meaning is the command's acceptance step, for the caller `issuer`; a send
goes on as FS's steps. The checks stand in R201's order. -/

namespace Sys2Proof.Machine

/-- OPEN (R100). That the event SerOpen is the issuing caller's is the model's choice (log 23). -/
def execOpenSerial (s : State) : Result :=
  serialClass s
    (.next (
      if s.serialOpen then s.raise .transportError
      else
        match s.draw.life with
        | .fail =>
          (s.log (.host s.issuer) (.serOpen s.params.deviceId s.params.baud .fail)).raise .transportError
        | .ok _ =>
          ((s.log (.host s.issuer) (.serOpen s.params.deviceId s.params.baud (.ok ()))).setSerialOpen
            true).complete .ok 0x00#8))

/-- CLOSE: the flag is cleared on a failed close too (R101, D12). That the event SerClose is the issuing
caller's is the model's choice (log 23). -/
def execCloseSerial (s : State) : Result :=
  serialClass s
    (whenSerialOpen s
      (.next (
        match s.draw.life with
        | .fail =>
          ((s.log (.host s.issuer) (.serClose .fail)).setSerialOpen false).raise .transportError
        | .ok _ =>
          ((s.log (.host s.issuer) (.serClose (.ok ()))).setSerialOpen false).complete .ok 0x00#8)))

/-- SET_DIAG (R102). -/
def execSetDiag (en : Switch) (s : State) : Result :=
  .next ((s.setDiag (en = .on)).complete .ok 0x00#8)

/-- BIND_TRAIN: the slot is bound to the address, its group bytes cleared (R103, 10_state R27). -/
def execBindTrain (slot : Byte) (addr : BitVec 16) (s : State) : Result :=
  .next (
    if slot.toNat < s.params.nt then
      match dccAddr? addr with
      | some a =>
        (s.setSlot slot.toNat { bound := true, addr := a, grp := #v[0x00#8, 0x00#8, 0x00#8] }).complete
          .ok 0x00#8
      | none => s.raise .invalidArgument
    else s.raise .invalidArgument)

/-- THROTTLE (R105). -/
def execThrottle (slot : Byte) (dir : Dir) (speed : Byte) (s : State) : Result :=
  serialClass s
    (match s.boundSlot slot with
    | none => .next (s.raise .invalidArgument)
    | some sl =>
      if speedOk speed then
        whenSerialOpen s
          (reading sl.readAddr fun a => .next (startTx (throttleBody a dir speed) s))
      else .next (s.raise .invalidArgument))

/-- FUNCTION: the group byte is updated at acceptance, before the first attempt, and stays updated
whatever becomes of the send (R110, R112). -/
def execFunction (slot : Byte) (num : Byte) (sw : Switch) (s : State) : Result :=
  serialClass s
    (match s.boundSlot slot with
    | none => .next (s.raise .invalidArgument)
    | some sl =>
      match s.params.funcRow num with
      | none => .next (s.raise .invalidArgument)
      | some row =>
        whenSerialOpen s
          (reading sl.readAddr fun a =>
            reading (sl.readGrp row.group) fun old =>
              let v := groupByte row sw old
              .next (startTx (functionBody row.groupOpcode a v)
                (s.setSlot slot.toNat { sl with grp := sl.grp.set row.group v }))))

/-- ACTIVATE (R114). -/
def execActivate (addr : Byte) (offset : Byte) (s : State) : Result :=
  serialClass s (whenSerialOpen s (.next (startTx (accessoryBody addr offset 0x01#8) s)))

/-- DEACTIVATE (R115). -/
def execDeactivate (addr : Byte) (offset : Byte) (s : State) : Result :=
  serialClass s (whenSerialOpen s (.next (startTx (accessoryBody addr offset 0x00#8) s)))

end Sys2Proof.Machine
end

