-- ==== Sys2Proof/Machine/Dispatch.lean ====
section
/-! DEFINITION. exec: one arm per row of the opcode table, each one direct call of its meaning. -/

namespace Sys2Proof.Machine

def exec (i : Instr) (s : State) : Host.Outcome State Fault Refusal :=
  match i with
  | .openSerial => Sys2Proof.Machine.execOpenSerial s
  | .closeSerial => Sys2Proof.Machine.execCloseSerial s
  | .setDiag en => Sys2Proof.Machine.execSetDiag en s
  | .bindTrain slot addr => Sys2Proof.Machine.execBindTrain slot addr s
  | .throttle slot dir speed => Sys2Proof.Machine.execThrottle slot dir speed s
  | .function slot num sw => Sys2Proof.Machine.execFunction slot num sw s
  | .activate addr offset => Sys2Proof.Machine.execActivate addr offset s
  | .deactivate addr offset => Sys2Proof.Machine.execDeactivate addr offset s
  | .openBus => Sys2Proof.Machine.execOpenBus s
  | .closeBus => Sys2Proof.Machine.execCloseBus s
  | .configure ctrl => Sys2Proof.Machine.execConfigure ctrl s
  | .makeSensor ctrl bank port => Sys2Proof.Machine.execMakeSensor ctrl bank port s
  | .wait ctrl bank port => Sys2Proof.Machine.execWait ctrl bank port s
  | .frameThrottle addr dir speed c => Sys2Proof.Machine.execFrameThrottle addr dir speed c s
  | .frameFunction g addr v c => Sys2Proof.Machine.execFrameFunction g addr v c s
  | .frameActivate a o c => Sys2Proof.Machine.execFrameActivate a o c s
  | .frameDeactivate a o c => Sys2Proof.Machine.execFrameDeactivate a o c s

end Sys2Proof.Machine
end

