-- ==== Sys2Proof/Machine/Agents.lean ====
section
/-! DEFINITION. What each move of the environment does: how a held command word is fetched, decoded and run
(30_encoding R73, R74), how FS runs the frame in its buffer (40_command R120), a bus sequencer's step, and
reset. -/

namespace Sys2Proof.Machine

/-- The block considers caller c's held command. An illegal word completes at once with IllegalCommand
(30_encoding R74); a legal one runs its acceptance step for c, which may hold it further (R73). A caller
with no held command has no such move (log 6). -/
def acceptTurn (c : CallerId) (s : State) : Result :=
  match s.caller c with
  | some (.held w) =>
    match decodeHcw w with
    | .ok i => exec i (s.setIssuer c)
    | .bad _ => .next ((s.setIssuer c).raise .illegalCommand)
  | some .running => .next s
  | some (.done _) => .next s
  | none => .next s

/-- WRITE of the frame in fs.buf: bytes that decode as a wire frame run as that frame; any other bytes
go out as they stand (R120: SerWrite(fs.buf)). -/
def fsWriteTurn (s : State) : Result :=
  reading s.fs.readBuf fun buf =>
    match decodeFrame buf with
    | .ok i => exec i s
    | .bad _ => fsWrite s

/-- The one step of FS (R120). An idle FS has none. -/
def fsTurn (s : State) : Result :=
  match s.fs.st with
  | .idle => .next s
  | .write => fsWriteTurn s
  | .settle => .next (fsSettle s)
  | .drain => fsDrain s

/-- One move of the environment. -/
def moveStep (m : Move) (s : State) : Result :=
  match m with
  | .issue c w => .next (s.issue c w)
  | .accept c => acceptTurn c s
  | .receive c => .next (s.receive c)
  | .fs => fsTurn s
  | .bs j => bsTurn j s
  | .reset => .next s.resetEvent

/-- A code placed where the next step fetches. A command word: a caller with nothing outstanding holds
it, and the next turn considers that caller's command. A frame: FS is at the WRITE of it for such a
caller, on an open link, and the next turn is FS's. The turn's answers are the free draw at tick, which is
then used up: no later turn takes the same one (00_scope R15; log 3, 11). -/
def State.placeCode (code : Code) (s : State) : State :=
  let c := s.freshCaller
  match code with
  | .hcw w =>
    { s.setCaller c (.held w) with
      script := ⟨.accept c, Config.freeDraw s.tick⟩ :: s.script
      tick := s.tick + 1 }
  | .frame bytes =>
    { (s.setCaller c .running).setFs { st := .write, buf := bytes, attempt := 0, owner := c } with
      serialOpen := true
      script := ⟨.fs, Config.freeDraw s.tick⟩ :: s.script
      tick := s.tick + 1 }

end Sys2Proof.Machine
end

