-- ==== Sys2Proof/Machine/Step.lean ====
section
/-! DEFINITION. One step of the machine: the next turn's move, with that turn's answers of the outside (log 3).
A parameter set that breaks 00_scope R8 is rejected. -/

namespace Sys2Proof.Machine

def step (s : State) : Host.Outcome State Fault Refusal :=
  if s.params.wellFormed then moveStep s.nextTurn.move s.takeTurn else .refused .parametersIllFormed

/-- s with the instruction whose bits are w, numbered as the opcode table numbers them, placed where the
next step fetches (log 10, 11). A width the table does not have places nothing. -/
def State.withFetchWord (s : State) (nbits w : Nat) : State :=
  match tableCode nbits w with
  | some code => s.placeCode code
  | none => s

end Sys2Proof.Machine
end

