-- ==== Sys2Proof/Machine/Assembler.lean ====
section
/-! DEFINITION. The textual syntax of host programs (30_encoding R81): one command per line, `;` starts a
comment, numbers are decimal or 0x hex, t<n> names slot n. Each line assembles to one command word.
Text is a list of characters. A number that does not fit its operand field assembles to nothing
(DESIGN CHOICE, log 20). There are no pseudo-instructions (R82). -/

namespace Sys2Proof

/-- A token: a run of characters other than blanks and commas, or a comma. -/
abbrev Token := List Char

/-- A token ends: it is kept unless empty. -/
def Asm.flush (cur : Token) : List Token := if cur.isEmpty then [] else [cur]

/-- The tokens of one line, its comment left out. -/
def Asm.lex : Token → List Char → List Token
  | cur, [] => Asm.flush cur
  | cur, ch :: rest =>
    if ch = ';' then Asm.flush cur
    else if ch = ' ' ∨ ch = '\t' ∨ ch = '\r' then Asm.flush cur ++ Asm.lex [] rest
    else if ch = ',' then Asm.flush cur ++ [','] :: Asm.lex [] rest
    else Asm.lex (cur ++ [ch]) rest

/-- The value of one digit, decimal or hexadecimal. -/
def Asm.digit (ch : Char) : Option Nat :=
  let n := ch.toNat
  if 48 ≤ n ∧ n ≤ 57 then some (n - 48)
  else if 65 ≤ n ∧ n ≤ 70 then some (n - 55)
  else if 97 ≤ n ∧ n ≤ 102 then some (n - 87)
  else none

/-- The digits of a number in a base, after a value already read. -/
def Asm.digits (base acc : Nat) : List Char → Option Nat
  | [] => some acc
  | ch :: rest =>
    match Asm.digit ch with
    | some d => if d < base then Asm.digits base (acc * base + d) rest else none
    | none => none

/-- A number: decimal, or hexadecimal after 0x. -/
def Asm.number : Token → Option Nat
  | '0' :: 'x' :: ch :: rest => Asm.digits 16 0 (ch :: rest)
  | ch :: rest => Asm.digits 10 0 (ch :: rest)
  | [] => none

/-- A number that fits a w-bit operand field. -/
def Asm.field (w : Nat) (t : Token) : Option (BitVec w) :=
  match Asm.number t with
  | some n => if n < 2 ^ w then some (BitVec.ofNat w n) else none
  | none => none

/-- `t<n>`: a slot. -/
def Asm.slot : Token → Option Byte
  | 't' :: n => Asm.field 8 n
  | _ => none

/-- `F<n>`: a function number. -/
def Asm.fnNum : Token → Option Byte
  | 'F' :: n => Asm.field 8 n
  | _ => none

/-- `FWD` or `REV`. -/
def Asm.dir (t : Token) : Option Dir :=
  if t = ['F', 'W', 'D'] then some .forward
  else if t = ['R', 'E', 'V'] then some .reverse
  else none

/-- `ON` or `OFF`. -/
def Asm.onOff (t : Token) : Option Switch :=
  if t = ['O', 'N'] then some .on
  else if t = ['O', 'F', 'F'] then some .off
  else none

/-- `on` or `off`, of SET_DIAG. -/
def Asm.enable (t : Token) : Option Switch :=
  if t = ['o', 'n'] then some .on
  else if t = ['o', 'f', 'f'] then some .off
  else none

/-- `A` or `B`, as the bank operand's byte. -/
def Asm.bank (t : Token) : Option Byte :=
  if t = ['A'] then some 0x41#8
  else if t = ['B'] then some 0x42#8
  else none

/-- A command without operands. -/
def Asm.bare (op : Token) : Option Instr :=
  if op = ['O', 'P', 'E', 'N'] then some .openSerial
  else if op = ['C', 'L', 'O', 'S', 'E'] then some .closeSerial
  else if op = ['O', 'P', 'E', 'N', '_', 'B', 'U', 'S'] then some .openBus
  else if op = ['C', 'L', 'O', 'S', 'E', '_', 'B', 'U', 'S'] then some .closeBus
  else none

/-- A command with one operand. -/
def Asm.unary (op x : Token) : Option Instr :=
  if op = ['S', 'E', 'T', '_', 'D', 'I', 'A', 'G'] then (Asm.enable x).map .setDiag
  else if op = ['C', 'O', 'N', 'F', 'I', 'G', 'U', 'R', 'E'] then (Asm.field 8 x).map .configure
  else none

/-- A command with two operands. -/
def Asm.binary (op x y : Token) : Option Instr :=
  if op = ['B', 'I', 'N', 'D', '_', 'T', 'R', 'A', 'I', 'N'] then
    (Asm.slot x).bind fun s => (Asm.field 16 y).map (.bindTrain s)
  else if op = ['A', 'C', 'T', 'I', 'V', 'A', 'T', 'E'] then
    (Asm.field 8 x).bind fun a => (Asm.field 8 y).map (.activate a)
  else if op = ['D', 'E', 'A', 'C', 'T', 'I', 'V', 'A', 'T', 'E'] then
    (Asm.field 8 x).bind fun a => (Asm.field 8 y).map (.deactivate a)
  else none

/-- A command with three operands. -/
def Asm.ternary (op x y z : Token) : Option Instr :=
  if op = ['T', 'H', 'R', 'O', 'T', 'T', 'L', 'E'] then
    (Asm.slot x).bind fun s => (Asm.field 8 y).bind fun v => (Asm.dir z).map (.throttle s · v)
  else if op = ['F', 'U', 'N', 'C', 'T', 'I', 'O', 'N'] then
    (Asm.slot x).bind fun s => (Asm.fnNum y).bind fun n => (Asm.onOff z).map (.function s n)
  else if op = ['M', 'A', 'K', 'E', '_', 'S', 'E', 'N', 'S', 'O', 'R'] then
    (Asm.field 8 x).bind fun c => (Asm.bank y).bind fun b => (Asm.field 8 z).map (.makeSensor c b)
  else if op = ['W', 'A', 'I', 'T'] then
    (Asm.field 8 x).bind fun c => (Asm.bank y).bind fun b => (Asm.field 8 z).map (.wait c b)
  else none

/-- The command a line's tokens stand for. -/
def Asm.parse : List Token → Option Instr
  | [op] => Asm.bare op
  | [op, x] => Asm.unary op x
  | [op, x, [','], y] => Asm.binary op x y
  | [op, x, [','], y, [','], z] => Asm.ternary op x y z
  | _ => none

/-- The command one line of text stands for (R81). -/
def assembleLine (line : List Char) : Option Instr := Asm.parse (Asm.lex [] line)

/-- The command word one line assembles to. -/
def assembleWord (line : List Char) : Option Word :=
  match assembleLine line with
  | some i =>
    match encode i with
    | .hcw w => some w
    | .frame _ => none
  | none => none

/-- The lines of a text. -/
def Asm.lines : List Char → List Char → List (List Char)
  | cur, [] => [cur]
  | cur, ch :: rest => if ch = '\n' then cur :: Asm.lines [] rest else Asm.lines (cur ++ [ch]) rest

/-- A program of host commands: one command per line; a line of blanks or comment only holds none. -/
def assembleProgram (text : List Char) : Option (List Word) :=
  ((Asm.lines [] text).filter fun line => !(Asm.lex [] line).isEmpty).foldr
    (fun line rest => (assembleWord line).bind fun w => rest.map (w :: ·)) (some [])

end Sys2Proof
end

