-- ==== Sys2Proof/Safety.lean ====
section
/-! DEFINITION. What counts as a sound state of the machine, in the terms claims use: the shape of the register
files, the caller table's canonical form, who owns a busy sequencer, what a send and a WAIT hold, the
sensor's phases (10_state R33), and the scripts that give one sequencer its turns. -/

namespace Sys2Proof.Machine

/-! ### Invariants -/

/-- The parameters are a set the spec allows (00_scope R8), and there are NT slots and NP bus sequencers
(10_state R25, R32). -/
abbrev State.shapeOk (s : State) : Prop :=
  s.params.wellFormed = true ∧ s.slots.length = s.params.nt ∧ s.bs.length = s.params.np

/-- The caller table is in its canonical form: at most one entry a caller (10_state R34). -/
abbrev State.callersOk (s : State) : Prop := Callers.wf s.callers = true

/-- The owners of the busy sequencers (10_state R30, R32). -/
def State.owners (s : State) : List CallerId :=
  (if s.fs.busy then [s.fs.owner] else []) ++ (s.bs.filter Bs.busy).map Bs.owner

/-- The callers whose commands run are exactly the owners of busy sequencers, and no caller owns two
(10_state R34: at most one outstanding command). -/
abbrev State.ownersOk (s : State) : Prop :=
  s.owners.Nodup ∧ (∀ c ∈ s.owners, s.caller c = some .running) ∧
    ∀ e ∈ s.callers, e.2 = .running → e.1 ∈ s.owners

/-- Bytes that are a frame the block sends: they decode as a wire frame with the right checksum
(30_encoding R86 to R90), and a reader of the stream tells its kind (R91). -/
def blockFrame (p : Params) (bytes : List Byte) : Bool :=
  match decodeFrame bytes with
  | .ok i => i.wellFormed && (p.classify bytes).isSome
  | .bad _ => false

/-- While FS is busy the serial link is open, fewer than MAX_ATTEMPTS attempts have finished, and fs.buf
is a frame the block sends (10_state R30, 40_command R120, R124). -/
abbrev State.framerOk (s : State) : Prop :=
  s.fs.busy = true →
    s.serialOpen = true ∧ s.fs.attempt < maxAttempts ∧ blockFrame s.params s.fs.buf = true

/-- The eight port masks (41_sensor R149). -/
def portMasks : List Byte := [0x01#8, 0x02#8, 0x04#8, 0x08#8, 0x10#8, 0x20#8, 0x40#8, 0x80#8]

/-- While a sequencer runs a WAIT, it holds a port's mask, a CAP offset and the indicator register's
offset (10_state R32, 41_sensor R150). -/
abbrev State.waitsOk (s : State) : Prop :=
  ∀ b ∈ s.bs, b.st.inWait = true →
    b.mask ∈ portMasks ∧ b.ind = s.params.regOff .b .data ∧
      (b.cap = s.params.regOff .a .cap ∨ b.cap = s.params.regOff .b .cap)

/-- All of these together. -/
abbrev State.Inv (s : State) : Prop :=
  s.shapeOk ∧ s.callersOk ∧ s.ownersOk ∧ s.framerOk ∧ s.waitsOk

/-! ### The sensor's state machine -/

/-- Where a WAIT stands in the source's state machine (10_state R33). TRIGGERED is reached when W_ION_WR
completes and the WAIT ends, so it is no state of a running WAIT. -/
inductive SensorPhase where
  | beforeArmed
  | armed
  | bitSeenClear
  deriving DecidableEq, Repr

/-- The phase a bus sequencer's state stands for; none outside a WAIT (R33). -/
def BsSt.phase : BsSt → Option SensorPhase
  | .wUnlatch | .wIoffRd | .wIoffWr => some .beforeArmed
  | .wPollRd | .wSleep => some .armed
  | .wIonRd | .wIonWr => some .bitSeenClear
  | .idle | .cfgDirA | .cfgDirB | .cfgPuA | .cfgIeA => none

/-! ### What an event touches -/

/-- The register bus accesses of R55's table, for any device: what the block may write and read. -/
def Event.busAllowed (p : Params) : Event → Bool
  | .busRead _ off _ =>
    off == p.regOff .a .cap || off == p.regOff .b .cap || off == p.regOff .b .data
  | .busWrite _ off v _ =>
    (off == p.regOff .a .dir && v == p.cfgDirAIn) || (off == p.regOff .b .dir && v == p.cfgDirBOut) ||
      (off == p.regOff .a .pullup && v == p.cfgPullupAAll) ||
        (off == p.regOff .a .inten && v == p.cfgIntenAAll) || off == p.regOff .b .data
  | .serOpen _ _ _ | .serClose _ | .busOpen _ | .busClose _ | .serWrite _ _ | .settle _ | .serDrain _
  | .sleep _ | .diagTx _ | .diagRx _ => true

/-- A diagnostic event (40_command R121). -/
def Event.isDiag : Event → Bool
  | .diagTx _ | .diagRx _ => true
  | .serOpen _ _ _ | .serClose _ | .busOpen _ | .busClose _ | .serWrite _ _ | .settle _ | .serDrain _
  | .busRead _ _ _ | .busWrite _ _ _ _ | .sleep _ => false

/-- What the step from s to t appended to the history. -/
def newEvents (s t : State) : List Entry := t.history.drop s.history.length

/-! ### Results -/

/-- s with result word w pending for the caller whose command it accepts, and nothing else changed. -/
def State.answered (w : Word) (s : State) : State :=
  { s with callers := Callers.put s.issuer (.done w) s.callers }

/-- A word R80 allows as a result: zeros above bit 15, a listed code, and data only with OK. -/
def legalResult (w : Word) : Bool :=
  w.extractLsb' 16 16 == 0#16 && (w.extractLsb' 0 8).toNat ≤ 5 &&
    (w.extractLsb' 8 8 == 0#8 || w.extractLsb' 0 8 == 0#8)

/-- Every pending result and every result returned is a word R80 allows. -/
abbrev State.resultsOk (s : State) : Prop :=
  (∀ e ∈ s.callers, ∀ w, e.2 = .done w → legalResult w = true) ∧
    ∀ e ∈ s.results, legalResult e.2 = true

/-! ### The opcode table's rows -/

/-- Match and mask of the thirteen rows of format HCW of spec/opcode_table.json. -/
def hcwTable : List (Word × Word) :=
  [(0x01000000#32, 0xFFFFFFFF#32), (0x02000000#32, 0xFFFFFFFF#32), (0x03000000#32, 0xFFFFFFFE#32),
   (0x10000000#32, 0xFF000000#32), (0x11000000#32, 0xFF00FE00#32), (0x12000000#32, 0xFF0000FE#32),
   (0x13000000#32, 0xFFFF0000#32), (0x14000000#32, 0xFFFF0000#32), (0x20000000#32, 0xFFFFFFFF#32),
   (0x21000000#32, 0xFFFFFFFF#32), (0x22000000#32, 0xFFFFFF00#32), (0x23000000#32, 0xFF000000#32),
   (0x24000000#32, 0xFF000000#32)]

/-- The group byte after a sequence of calls on one group, in call order (40_command R111). -/
def groupFold (calls : List (FuncRow × Switch)) (v : Byte) : Byte :=
  calls.foldl (fun acc call => groupByte call.1 call.2 acc) v

/-- The word matches a row of the table. -/
def inHcwTable (w : Word) : Bool := hcwTable.any fun row => w &&& row.2 == row.1

/-! ### States that agree up to something -/

/-- Two outcomes that agree up to f. -/
def agreeUpTo (f : State → State) (a b : Result) : Prop :=
  match a, b with
  | .next t, .next u => f t = f u
  | .fault x, .fault y => x = y
  | .refused x, .refused y => x = y
  | .next _, .fault _ | .next _, .refused _ | .fault _, .next _ | .fault _, .refused _
  | .refused _, .next _ | .refused _, .fault _ => False

/-- s without the diagnostics switch and without the diagnostic events. -/
def State.sansEcho (s : State) : State :=
  { s with diag := false, history := s.history.filter fun e => !e.event.isDiag }

/-- A slot with the registers that have no value (10_state R38) at their reset contents. -/
def Slot.scrub (sl : Slot) : Slot := if sl.bound then sl else Slot.reset

/-- FS likewise. -/
def Fs.scrub (f : Fs) : Fs := if f.busy then f else Fs.reset

/-- A bus sequencer likewise. -/
def Bs.scrub (b : Bs) : Bs where
  st    := b.st
  dev   := if b.busy then b.dev else 0#8
  cap   := if b.st.inWait then b.cap else 0#8
  ind   := if b.st.inWait then b.ind else 0#8
  mask  := if b.st.inWait then b.mask else 0#8
  tmp   := if b.st.hasTmp then b.tmp else 0#8
  owner := if b.busy then b.owner else 0

/-- s with every register that has no value at its reset contents. -/
def State.scrub (s : State) : State :=
  { s with slots := s.slots.map Slot.scrub, fs := s.fs.scrub, bs := s.bs.map Bs.scrub }

/-- The transaction of a bus sequencer's state is a BusRead (41_sensor R151, R152, R154, R156). -/
def BsSt.reads : BsSt → Bool
  | .wUnlatch | .wIoffRd | .wPollRd | .wIonRd => true
  | .idle | .cfgDirA | .cfgDirB | .cfgPuA | .cfgIeA | .wIoffWr | .wSleep | .wIonWr => false

/-- The transaction of a bus sequencer's state is a BusWrite (41_sensor R145, R153, R157). -/
def BsSt.writes : BsSt → Bool
  | .cfgDirA | .cfgDirB | .cfgPuA | .cfgIeA | .wIoffWr | .wIonWr => true
  | .idle | .wUnlatch | .wIoffRd | .wPollRd | .wSleep | .wIonRd => false

/-- The offset the BusRead of a sequencer's state goes to (41_sensor R151, R152, R154, R156). -/
def Bs.readOff (b : Bs) : Byte :=
  match b.st with
  | .wUnlatch | .wPollRd => b.cap
  | .wIoffRd | .wIonRd => b.ind
  | .idle | .cfgDirA | .cfgDirB | .cfgPuA | .cfgIeA | .wIoffWr | .wSleep | .wIonWr => b.ind

/-- The offset and the byte of the BusWrite of a sequencer's state (41_sensor R145, R153, R157). -/
def Bs.writeArgs (p : Params) (b : Bs) : Byte × Byte :=
  match b.st with
  | .cfgDirA => (p.offA.dir, p.cfgDirAIn)
  | .cfgDirB => (p.offB.dir, p.cfgDirBOut)
  | .cfgPuA => (p.offA.pullup, p.cfgPullupAAll)
  | .cfgIeA => (p.offA.inten, p.cfgIntenAAll)
  | .wIoffWr => (b.ind, b.tmp &&& ~~~b.mask)
  | .wIonWr => (b.ind, b.tmp ||| b.mask)
  | .idle | .wUnlatch | .wIoffRd | .wPollRd | .wSleep | .wIonRd => (b.ind, b.tmp)

/-! ### Runs -/

/-- n steps, stopping at the first fault or refusal. -/
def runSteps : Nat → State → Result
  | 0, s => .next s
  | n + 1, s =>
    match step s with
    | .next t => runSteps n t
    | .fault f => .fault f
    | .refused r => .refused r

/-- The step from s runs instruction i as the acceptance of a held command. -/
def acceptsInstr (s : State) (i : Instr) : Prop :=
  ∃ c w, s.nextTurn.move = .accept c ∧ s.caller c = some (.held w) ∧ decodeHcw w = .ok i

/-! ### Scripts of turns -/

/-- A turn of FS whose write answers w. -/
def fsTurnWrite (w : Answer Unit) : Turn := ⟨.fs, { Config.noDraw with write := w }⟩

/-- A turn of FS whose drain answers d. -/
def fsTurnDrain (d : Answer (List Byte)) : Turn := ⟨.fs, { Config.noDraw with drain := d }⟩

/-- The three turns of one attempt whose write is answered ok and whose drain returns rx. -/
def attemptTurns (rx : List Byte) : List Turn :=
  [fsTurnWrite (.ok ()), ⟨.fs, Config.noDraw⟩, fsTurnDrain (.ok rx)]

/-- The events of one such attempt without the echo (40_command R122). -/
def attemptEvents (buf rx : List Byte) : List Entry :=
  [⟨.fs, .serWrite buf (.ok ())⟩, ⟨.fs, .settle settleMs⟩, ⟨.fs, .serDrain (.ok rx)⟩]

/-- A turn of BS[j] whose read answers v. -/
def bsTurnRead (j : Nat) (v : Byte) : Turn := ⟨.bs j, { Config.noDraw with read := .ok v }⟩

/-- A turn of BS[j] whose write answers ok. -/
def bsTurnWrite (j : Nat) : Turn := ⟨.bs j, { Config.noDraw with write := .ok () }⟩

/-- A turn of BS[j] with no transaction. -/
def bsTurnSleep (j : Nat) : Turn := ⟨.bs j, Config.noDraw⟩

/-- The turns of one poll that sees the bit set: the poll read, then the sleep (41_sensor R154, R155). -/
def pollTurns (j : Nat) (v : Byte) : List Turn := [bsTurnRead j v, bsTurnSleep j]

/-- The events of one such poll. -/
def pollEvents (j : Nat) (dev cap v : Byte) : List Entry :=
  [⟨.bs j, .busRead dev cap (.ok v)⟩, ⟨.bs j, .sleep pollMs⟩]

/-- The events of a CONFIGURE that succeeds (41_sensor R146). -/
def configureEvents (p : Params) (j : Nat) (dev : Byte) : List Entry :=
  [⟨.bs j, .busWrite dev (p.regOff .a .dir) p.cfgDirAIn (.ok ())⟩,
   ⟨.bs j, .busWrite dev (p.regOff .b .dir) p.cfgDirBOut (.ok ())⟩,
   ⟨.bs j, .busWrite dev (p.regOff .a .pullup) p.cfgPullupAAll (.ok ())⟩,
   ⟨.bs j, .busWrite dev (p.regOff .a .inten) p.cfgIntenAAll (.ok ())⟩]

/-! ### The end of a send -/

/-- The transaction of FS's state answers blocked; SETTLE has no such answer (40_command R120, D48). -/
def FsSt.blockedBy (st : FsSt) (d : Draw) : Bool :=
  match st with
  | .write => d.write = .blocked
  | .drain => d.drain = .blocked
  | .idle | .settle => false

/-- The next turn is FS's, and the transaction it performs does not answer blocked. -/
def State.fsUnblocked (s : State) : Bool :=
  s.nextTurn.move = .fs && !s.fs.st.blockedBy s.nextTurn.draw

/-- How many unblocked steps FS has at most before its send ends: three for each attempt not yet counted, less
the place in WRITE, SETTLE, DRAIN (40_command R125). -/
def State.fsRank (s : State) : Nat :=
  match s.fs.st with
  | .idle => 0
  | .write => 3 * (maxAttempts - s.fs.attempt)
  | .settle => 3 * (maxAttempts - s.fs.attempt) - 1
  | .drain => 3 * (maxAttempts - s.fs.attempt) - 2

/-- How many of the n steps from s are turns of FS whose transaction does not answer blocked, wherever they
fall among the other agents' turns. -/
def fsTurnsTaken : Nat → State → Nat
  | 0, _ => 0
  | n + 1, s =>
    (if s.fsUnblocked then 1 else 0) +
      match step s with
      | .next t => fsTurnsTaken n t
      | .fault _ => 0
      | .refused _ => 0

/-- None of the n steps from s is the reset event. -/
def resetFree : Nat → State → Bool
  | 0, _ => true
  | n + 1, s =>
    s.nextTurn.move ≠ .reset &&
      match step s with
      | .next t => resetFree n t
      | .fault _ => true
      | .refused _ => true

/-! ### The textual syntax -/

/-- The tokens stand for command i, whose word is the number n (30_encoding R81). -/
def assemblesTo (toks : List Token) (i : Instr) (n : Nat) : Prop :=
  Asm.parse toks = some i ∧ encode i = .hcw (BitVec.ofNat 32 n)

/-- A token of a mnemonic or an operand: no blank, comma or comment sign in it, and not empty. -/
def Asm.plain (t : Token) : Bool :=
  !t.isEmpty && t.all fun ch => ch ≠ ' ' && ch ≠ '\t' && ch ≠ '\r' && ch ≠ ',' && ch ≠ ';'

end Sys2Proof.Machine
end

