-- ==== Sys2Proof/Certificates/Slice0/Obligations.lean ====
section
/-! DEFINITION. The statements about the machine, from the spec's numbered rules. Each docstring names the rules it
formalises; where a clause rests on the model's own choice, the docstring names the log entry. -/

open Sys2Proof Sys2Proof.Machine

/-! ### Encoding -/

/-- Words written out from R71's and R81's tables and frames from R86 to R88 decode to what they stand for. That
a frame's b0 is the most significant byte of its number is the model's reading (log 10). -/
def Obligations.TableWordsDecode : Prop :=
  decodeTableWord 32 0x01000000 = some .openSerial ∧
  decodeTableWord 32 0x10013FFF = some (.bindTrain 1#8 0x3FFF#16) ∧
  decodeTableWord 32 0x11000132 = some (.throttle 0#8 .forward 50#8) ∧
  decodeTableWord 32 0x12000C00 = some (.function 0#8 12#8 .off) ∧
  decodeTableWord 32 0x24204208 = some (.wait 0x20#8 0x42#8 8#8) ∧
  decodeTableWord 32 0x520A84DC = some (.frameDeactivate 0x0A#8 2#6 0xDC#8) ∧
  decodeTableWord 48 0xE4133FFF7F48 = some (.frameThrottle 0x3FFF#14 .reverse 127#7 0x48#8) ∧
  decodeTableWord 32 0x11000232 = none ∧ decodeTableWord 32 0x25000000 = none

/-- Decoding what was encoded gives the instruction back, for every well-formed instruction (R71, R86 to
R88). -/
def Obligations.DecodeOfEncode : Prop :=
  ∀ i : Instr, i.wellFormed = true → decode (encode i) = .ok i

/-- No two codes decode to one instruction: a code that decodes is the instruction's encoding (R71, R86 to
R88). -/
def Obligations.EncodeOfDecode : Prop :=
  ∀ (code : Code) (i : Instr), decode code = .ok i → encode i = code

/-- The words the decoder takes are exactly those that match a row of the opcode table (R71). -/
def Obligations.DecodedWordsMatchTable : Prop :=
  ∀ w : Word, (∃ i, decodeHcw w = .ok i) ↔ inHcwTable w = true

/-- R74: an illegal word completes at once with IllegalCommand, whatever is busy, and changes no block state
but the caller's result. -/
def Obligations.IllegalWordAnswered : Prop :=
  ∀ (s : State) (c : CallerId) (w : Word), s.caller c = some (.held w) → inHcwTable w = false →
    moveStep (.accept c) s = .next ((s.setIssuer c).answered 0x00000005#32)

/-- R81: a line that assembles is one command word, and the decoder reads the same command from it. -/
def Obligations.AssembledLineDecodes : Prop :=
  ∀ (line : List Char) (i : Instr), assembleLine line = some i →
    ∃ w, encode i = .hcw w ∧ assembleWord line = some w ∧ decodeHcw w = .ok i

/-- R81's table: the command and the word of each of the thirteen forms, for every operand its field reader
takes. Numbers and slots are read as LineTokensAndNumbers says. -/
def Obligations.AssembledForms : Prop :=
  assemblesTo ["OPEN".toList] .openSerial 0x01000000 ∧
  assemblesTo ["CLOSE".toList] .closeSerial 0x02000000 ∧
  assemblesTo ["SET_DIAG".toList, "on".toList] (.setDiag .on) 0x03000001 ∧
  assemblesTo ["SET_DIAG".toList, "off".toList] (.setDiag .off) 0x03000000 ∧
  (∀ (t u : Token) (s : Byte) (addr : BitVec 16), Asm.slot t = some s → Asm.field 16 u = some addr →
    assemblesTo ["BIND_TRAIN".toList, t, [','], u] (.bindTrain s addr)
      (0x10 * 2 ^ 24 + s.toNat * 2 ^ 16 + addr.toNat)) ∧
  (∀ (t u : Token) (s speed : Byte), Asm.slot t = some s → Asm.field 8 u = some speed →
    assemblesTo ["THROTTLE".toList, t, [','], u, [','], "FWD".toList] (.throttle s .forward speed)
      (0x11 * 2 ^ 24 + s.toNat * 2 ^ 16 + 1 * 2 ^ 8 + speed.toNat) ∧
    assemblesTo ["THROTTLE".toList, t, [','], u, [','], "REV".toList] (.throttle s .reverse speed)
      (0x11 * 2 ^ 24 + s.toNat * 2 ^ 16 + speed.toNat)) ∧
  (∀ (t u : Token) (s n : Byte), Asm.slot t = some s → Asm.fnNum u = some n →
    assemblesTo ["FUNCTION".toList, t, [','], u, [','], "ON".toList] (.function s n .on)
      (0x12 * 2 ^ 24 + s.toNat * 2 ^ 16 + n.toNat * 2 ^ 8 + 1) ∧
    assemblesTo ["FUNCTION".toList, t, [','], u, [','], "OFF".toList] (.function s n .off)
      (0x12 * 2 ^ 24 + s.toNat * 2 ^ 16 + n.toNat * 2 ^ 8)) ∧
  (∀ (t u : Token) (addr offset : Byte), Asm.field 8 t = some addr → Asm.field 8 u = some offset →
    assemblesTo ["ACTIVATE".toList, t, [','], u] (.activate addr offset)
      (0x13 * 2 ^ 24 + addr.toNat * 2 ^ 8 + offset.toNat) ∧
    assemblesTo ["DEACTIVATE".toList, t, [','], u] (.deactivate addr offset)
      (0x14 * 2 ^ 24 + addr.toNat * 2 ^ 8 + offset.toNat)) ∧
  assemblesTo ["OPEN_BUS".toList] .openBus 0x20000000 ∧
  assemblesTo ["CLOSE_BUS".toList] .closeBus 0x21000000 ∧
  (∀ (t : Token) (ctrl : Byte), Asm.field 8 t = some ctrl →
    assemblesTo ["CONFIGURE".toList, t] (.configure ctrl) (0x22 * 2 ^ 24 + ctrl.toNat)) ∧
  ∀ (t u : Token) (ctrl port : Byte), Asm.field 8 t = some ctrl → Asm.field 8 u = some port →
    assemblesTo ["MAKE_SENSOR".toList, t, [','], ['A'], [','], u] (.makeSensor ctrl 0x41#8 port)
      (0x23 * 2 ^ 24 + ctrl.toNat * 2 ^ 16 + 0x41 * 2 ^ 8 + port.toNat) ∧
    assemblesTo ["MAKE_SENSOR".toList, t, [','], ['B'], [','], u] (.makeSensor ctrl 0x42#8 port)
      (0x23 * 2 ^ 24 + ctrl.toNat * 2 ^ 16 + 0x42 * 2 ^ 8 + port.toNat) ∧
    assemblesTo ["WAIT".toList, t, [','], ['A'], [','], u] (.wait ctrl 0x41#8 port)
      (0x24 * 2 ^ 24 + ctrl.toNat * 2 ^ 16 + 0x41 * 2 ^ 8 + port.toNat) ∧
    assemblesTo ["WAIT".toList, t, [','], ['B'], [','], u] (.wait ctrl 0x42#8 port)
      (0x24 * 2 ^ 24 + ctrl.toNat * 2 ^ 16 + 0x42 * 2 ^ 8 + port.toNat)

/-- R81: how a line is cut into tokens, a comment left out, and what the numbers and the names t<n> and F<n>
stand for: every number that fits the field is read from its decimal digits and from 0x and its hex digits. That
blanks separate tokens, and that a number too large for its field is none, is the model's choice (log 20). -/
def Obligations.LineTokensAndNumbers : Prop :=
  (∀ (t : Token) (rest : List Char), Asm.plain t = true →
    Asm.lex [] t = [t] ∧ Asm.lex [] (t ++ ';' :: rest) = [t] ∧
    Asm.lex [] (t ++ ' ' :: rest) = t :: Asm.lex [] rest ∧
    Asm.lex [] (t ++ ',' :: rest) = t :: [','] :: Asm.lex [] rest) ∧
  (∀ rest : List Char, Asm.lex [] (';' :: rest) = [] ∧ Asm.lex [] (' ' :: rest) = Asm.lex [] rest ∧
    Asm.lex [] (',' :: rest) = [','] :: Asm.lex [] rest) ∧
  (∀ w n : Nat,
    (n < 2 ^ w → Asm.field w (Nat.toDigits 10 n) = some (BitVec.ofNat w n) ∧
      Asm.field w ('0' :: 'x' :: Nat.toDigits 16 n) = some (BitVec.ofNat w n)) ∧
    (2 ^ w ≤ n → Asm.field w (Nat.toDigits 10 n) = none ∧
      Asm.field w ('0' :: 'x' :: Nat.toDigits 16 n) = none)) ∧
  ∀ t : Token, Asm.slot ('t' :: t) = Asm.field 8 t ∧ Asm.fnNum ('F' :: t) = Asm.field 8 t

/-! ### A step runs the decoded instruction -/

/-- A turn that considers a caller's held command runs the decoded command for that caller (R73, R71). Turns are
the model's form of the environment (log 3, 5). -/
def Obligations.StepRunsHeldCommand : Prop :=
  ∀ (s : State) (c : CallerId) (w : Word) (i : Instr), s.params.wellFormed = true →
    s.nextTurn.move = .accept c → s.caller c = some (.held w) → decodeHcw w = .ok i →
      step s = exec i (s.takeTurn.setIssuer c)

/-- FS's turn at its WRITE runs the frame in fs.buf (R120). That a frame as an instruction is that write is the
model's reading (log 9). -/
def Obligations.StepRunsFrameInBuffer : Prop :=
  ∀ (s : State) (i : Instr), s.params.wellFormed = true → s.nextTurn.move = .fs →
    s.fs.st = .write → decodeFrame s.fs.buf = .ok i → step s = exec i s.takeTurn

/-! ### Unit F -/

/-- R100: OPEN, while FS is idle. That SerOpen stands in the history as the issuing caller's event is the model's
choice (log 23). -/
def Obligations.OpenOutcome : Prop :=
  ∀ s : State, s.fs.st = .idle →
    (s.serialOpen = true → exec .openSerial s = .next (s.answered 0x00000001#32)) ∧
    (s.serialOpen = false → s.draw.life = .fail →
      exec .openSerial s = .next (State.answered 0x00000001#32
        { s with
          history := s.history ++
            [⟨.host s.issuer, .serOpen s.params.deviceId s.params.baud .fail⟩] })) ∧
    (s.serialOpen = false → s.draw.life = .ok () →
      exec .openSerial s = .next (State.answered 0x00000000#32
        { s with
          serialOpen := true
          history := s.history ++
            [⟨.host s.issuer, .serOpen s.params.deviceId s.params.baud (.ok ())⟩] }))

/-- R101: CLOSE, while FS is idle; the flag is cleared on a failed close too. That SerClose stands in the history
as the issuing caller's event is the model's choice (log 23). -/
def Obligations.CloseOutcome : Prop :=
  ∀ s : State, s.fs.st = .idle →
    (s.serialOpen = false → exec .closeSerial s = .next (s.answered 0x00000001#32)) ∧
    (s.serialOpen = true → s.draw.life = .fail →
      exec .closeSerial s = .next (State.answered 0x00000001#32
        { s with
          serialOpen := false
          history := s.history ++ [⟨.host s.issuer, .serClose .fail⟩] })) ∧
    (s.serialOpen = true → s.draw.life = .ok () →
      exec .closeSerial s = .next (State.answered 0x00000000#32
        { s with
          serialOpen := false
          history := s.history ++ [⟨.host s.issuer, .serClose (.ok ())⟩] }))

/-- R102: SET_DIAG, in any state. -/
def Obligations.SetDiagOutcome : Prop :=
  ∀ s : State,
    exec (.setDiag .on) s = .next (State.answered 0x00000000#32 { s with diag := true }) ∧
    exec (.setDiag .off) s = .next (State.answered 0x00000000#32 { s with diag := false })

/-- R103: BIND_TRAIN, in any state. -/
def Obligations.BindTrainOutcome : Prop :=
  ∀ (s : State) (slot : Byte) (addr : BitVec 16),
    (slot.toNat < s.params.nt → addr.toNat ≤ 16383 →
      exec (.bindTrain slot addr) s = .next (State.answered 0x00000000#32
        { s with
          slots := s.slots.set slot.toNat
            { bound := true, addr := BitVec.ofNat 14 addr.toNat, grp := #v[0x00#8, 0x00#8, 0x00#8] } })) ∧
    (s.params.nt ≤ slot.toNat ∨ 16383 < addr.toNat →
      exec (.bindTrain slot addr) s = .next (s.answered 0x00000004#32))

/-- R105, and R124 for the frame: THROTTLE, while FS is idle. The frame's bytes are written as numbers. -/
def Obligations.ThrottleOutcome : Prop :=
  ∀ (s : State) (slot : Byte) (dir : Dir) (speed : Byte), s.fs.st = .idle →
    (∀ sl, slot.toNat < s.params.nt → s.slots[slot.toNat]? = some sl → sl.bound = true →
      (speed.toNat ≤ 127 → s.serialOpen = true →
        exec (.throttle slot dir speed) s = .next { s with
          fs :=
            let b2 := BitVec.ofNat 8 (sl.addr.toNat / 256)
            let b3 := BitVec.ofNat 8 (sl.addr.toNat % 256)
            let b4 := BitVec.ofNat 8 ((if dir = .forward then 128 else 0) + speed.toNat)
            { st := .write
              buf := [0xE4#8, 0x13#8, b2, b3, b4, 0xE4#8 ^^^ 0x13#8 ^^^ b2 ^^^ b3 ^^^ b4]
              attempt := 0
              owner := s.issuer }
          callers := Callers.put s.issuer .running s.callers }) ∧
      (127 < speed.toNat → exec (.throttle slot dir speed) s = .next (s.answered 0x00000004#32)) ∧
      (speed.toNat ≤ 127 → s.serialOpen = false →
        exec (.throttle slot dir speed) s = .next (s.answered 0x00000001#32))) ∧
    (s.params.nt ≤ slot.toNat ∨ (∃ sl, s.slots[slot.toNat]? = some sl ∧ sl.bound = false) →
      exec (.throttle slot dir speed) s = .next (s.answered 0x00000004#32))

/-- R110, with R111 for the group byte and R124 for the frame: FUNCTION, while FS is idle. -/
def Obligations.FunctionOutcome : Prop :=
  ∀ (s : State) (slot num : Byte) (sw : Switch), s.fs.st = .idle →
    (∀ sl, slot.toNat < s.params.nt → s.slots[slot.toNat]? = some sl → sl.bound = true →
      (∀ h : num.toNat < 13, s.serialOpen = true →
        exec (.function slot num sw) s = .next (
          let row := s.params.funcTable[num.toNat]
          let old := sl.grp.get row.group
          let v := if sw = .on then old ||| row.onMask else old &&& ~~~row.offMask
          let b2 := BitVec.ofNat 8 (sl.addr.toNat / 256)
          let b3 := BitVec.ofNat 8 (sl.addr.toNat % 256)
          { s with
            slots := s.slots.set slot.toNat { sl with grp := sl.grp.set row.group v }
            fs :=
              { st := .write
                buf := [row.groupOpcode, 0x00#8, b2, b3, v,
                  row.groupOpcode ^^^ 0x00#8 ^^^ b2 ^^^ b3 ^^^ v]
                attempt := 0
                owner := s.issuer }
            callers := Callers.put s.issuer .running s.callers })) ∧
      (12 < num.toNat → exec (.function slot num sw) s = .next (s.answered 0x00000004#32)) ∧
      (num.toNat ≤ 12 → s.serialOpen = false →
        exec (.function slot num sw) s = .next (s.answered 0x00000001#32))) ∧
    (s.params.nt ≤ slot.toNat ∨ (∃ sl, s.slots[slot.toNat]? = some sl ∧ sl.bound = false) →
      exec (.function slot num sw) s = .next (s.answered 0x00000004#32))

/-- R114 and R115, with R88 for the offset byte and R124 for the frame: ACTIVATE and DEACTIVATE, while FS is
idle. -/
def Obligations.AccessoryOutcome : Prop :=
  ∀ (s : State) (addr offset : Byte), s.fs.st = .idle →
    (s.serialOpen = true →
      exec (.activate addr offset) s = .next { s with
        fs :=
          let b2 := BitVec.ofNat 8 (128 + 2 * (offset.toNat / 2 % 64) + 1)
          { st := .write, buf := [0x52#8, addr, b2, 0x52#8 ^^^ addr ^^^ b2], attempt := 0, owner := s.issuer }
        callers := Callers.put s.issuer .running s.callers } ∧
      exec (.deactivate addr offset) s = .next { s with
        fs :=
          let b2 := BitVec.ofNat 8 (128 + 2 * (offset.toNat / 2 % 64))
          { st := .write, buf := [0x52#8, addr, b2, 0x52#8 ^^^ addr ^^^ b2], attempt := 0, owner := s.issuer }
        callers := Callers.put s.issuer .running s.callers }) ∧
    (s.serialOpen = false →
      exec (.activate addr offset) s = .next (s.answered 0x00000001#32) ∧
      exec (.deactivate addr offset) s = .next (s.answered 0x00000001#32))

/-- R120 and R121: FS's one step, by its state. A blocked answer changes nothing. -/
def Obligations.FramerStepOutcome : Prop :=
  ∀ s : State,
    (s.fs.st = .write →
      (s.draw.write = .blocked → moveStep .fs s = .next s) ∧
      (s.draw.write = .fail →
        moveStep .fs s = .next { s with
          serialOpen := false
          fs := { s.fs with st := .idle }
          history := s.history ++ [⟨.fs, .serWrite s.fs.buf .fail⟩]
          callers := Callers.put s.fs.owner (.done 0x00000001#32) s.callers }) ∧
      (s.draw.write = .ok () →
        moveStep .fs s = .next { s with
          fs := { s.fs with st := .settle }
          history := s.history ++ ⟨.fs, .serWrite s.fs.buf (.ok ())⟩ ::
            (if s.diag = true then [⟨.fs, .diagTx s.fs.buf⟩] else []) })) ∧
    (s.fs.st = .settle →
      moveStep .fs s = .next { s with
        fs := { s.fs with st := .drain }
        history := s.history ++ [⟨.fs, .settle 100⟩] }) ∧
    (s.fs.st = .drain →
      (s.draw.drain = .blocked → moveStep .fs s = .next s) ∧
      (s.draw.drain = .fail →
        moveStep .fs s = .next { s with
          serialOpen := false
          fs := { s.fs with st := .idle }
          history := s.history ++ [⟨.fs, .serDrain .fail⟩]
          callers := Callers.put s.fs.owner (.done 0x00000001#32) s.callers }) ∧
      ∀ rx, s.draw.drain = .ok rx →
        (let echoed := s.history ++ ⟨.fs, .serDrain (.ok rx)⟩ ::
            (if s.diag = true then rx.map fun b => ⟨.fs, .diagRx b⟩ else [])
        (0x05#8 ∈ rx →
          moveStep .fs s = .next { s with
            fs := { s.fs with st := .idle }
            history := echoed
            callers := Callers.put s.fs.owner (.done 0x00000000#32) s.callers }) ∧
        (0x05#8 ∉ rx → s.fs.attempt + 1 < 5 →
          moveStep .fs s = .next { s with
            fs := { s.fs with st := .write, attempt := s.fs.attempt + 1 }
            history := echoed }) ∧
        (0x05#8 ∉ rx → 5 ≤ s.fs.attempt + 1 →
          moveStep .fs s = .next { s with
            fs := { s.fs with st := .idle, attempt := s.fs.attempt + 1 }
            history := echoed
            callers := Callers.put s.fs.owner (.done 0x00000003#32) s.callers })))

/-- R86 to R88 with R120's WRITE: each of the four wire frames, when it is the frame in fs.buf and FS is at
its WRITE, goes out in one SerWrite, echoed when diagnostics are on. That a frame as an instruction is that write
is the model's reading (log 9). -/
def Obligations.FrameGoesOut : Prop :=
  ∀ s : State, s.fs.st = .write → s.draw.write = .ok () →
    (let sent := Host.Outcome.next (φ := Fault) (ρ := Refusal) { s with
        fs := { s.fs with st := .settle }
        history := s.history ++ ⟨.fs, .serWrite s.fs.buf (.ok ())⟩ ::
          (if s.diag = true then [⟨.fs, .diagTx s.fs.buf⟩] else []) }
    (∀ (addr : DccAddr) (dir : Dir) (speed : BitVec 7) (c : Byte),
      s.fs.buf = [0xE4#8, 0x13#8, BitVec.ofNat 8 (addr.toNat / 256), BitVec.ofNat 8 (addr.toNat % 256),
        BitVec.ofNat 8 ((if dir = .forward then 128 else 0) + speed.toNat), c] →
      exec (.frameThrottle addr dir speed c) s = sent) ∧
    (∀ (g : Byte) (addr : DccAddr) (v c : Byte),
      s.fs.buf = [g, 0x00#8, BitVec.ofNat 8 (addr.toNat / 256), BitVec.ofNat 8 (addr.toNat % 256), v, c] →
      exec (.frameFunction g addr v c) s = sent) ∧
    (∀ (a : Byte) (o : BitVec 6) (c : Byte),
      s.fs.buf = [0x52#8, a, BitVec.ofNat 8 (128 + 2 * o.toNat + 1), c] →
      exec (.frameActivate a o c) s = sent) ∧
    (∀ (a : Byte) (o : BitVec 6) (c : Byte),
      s.fs.buf = [0x52#8, a, BitVec.ofNat 8 (128 + 2 * o.toNat), c] →
      exec (.frameDeactivate a o c) s = sent))

/-- A frame whose write is blocked changes nothing, one whose write fails ends the send with TransportError
and closes the link (R120), and a frame that is not the one FS is about to write is refused (the model's
choice, log 9). -/
def Obligations.FrameWriteOtherwise : Prop :=
  ∀ (s : State) (i : Instr) (bytes : List Byte), encode i = .frame bytes →
    (s.fs.st = .write → s.fs.buf = bytes → s.draw.write = .blocked → exec i s = .next s) ∧
    (s.fs.st = .write → s.fs.buf = bytes → s.draw.write = .fail →
      exec i s = .next { s with
        serialOpen := false
        fs := { s.fs with st := .idle }
        history := s.history ++ [⟨.fs, .serWrite bytes .fail⟩]
        callers := Callers.put s.fs.owner (.done 0x00000001#32) s.callers }) ∧
    (s.fs.st ≠ .write ∨ s.fs.buf ≠ bytes → exec i s = .refused .frameNotDue)

/-! ### Frames and checksums -/

/-- R90: items 1 to 3 for every frame a step writes to the link, from any state that meets the invariant;
item 4 for the frames of ACTIVATE and DEACTIVATE with the same operands. -/
def Obligations.FrameInvariants : Prop :=
  (∀ (s t : State) (e : Entry) (bytes : List Byte) (r : Reply Unit), s.Inv → step s = .next t →
    e ∈ newEvents s t → e.event = .serWrite bytes r →
      xorFold bytes = 0x00#8 ∧
      (bytes.length = 6 → ∃ b2, bytes[2]? = some b2 ∧ b2.toNat < 64) ∧
      (bytes.length = 4 → ∃ b2, bytes[2]? = some b2 ∧ 128 ≤ b2.toNat) ∧
      (bytes.length = 6 ∨ bytes.length = 4)) ∧
  ∀ addr offset : Byte, ∃ b2 b3 : Byte,
    frameOf (accessoryBody addr offset 0x00#8) = [0x52#8, addr, b2, b3] ∧
    frameOf (accessoryBody addr offset 0x01#8) = [0x52#8, addr, b2 ^^^ 0x01#8, b3 ^^^ 0x01#8]

/-- R119: a change to exactly one byte of a frame is detected; changes whose XOR is 0x00 are not; a
reordering never is. -/
def Obligations.ChecksumDetection : Prop :=
  ∀ f : List Byte, xorFold f = 0x00#8 →
    (∀ (n : Nat) (b old : Byte), f[n]? = some old → b ≠ old → xorFold (f.set n b) ≠ 0x00#8) ∧
    (∀ d : List Byte, d.length = f.length →
      (xorFold (List.zipWith (· ^^^ ·) f d) = 0x00#8 ↔ xorFold d = 0x00#8)) ∧
    ∀ g : List Byte, g.Perm f → xorFold g = 0x00#8

/-- R91 with R8(d): a reader of the stream tells the kinds of frame apart, for every parameter set the spec
allows. -/
def Obligations.ReaderTellsFramesApart : Prop :=
  ∀ p : Params, p.wellFormed = true →
    (∀ a dir speed, p.classify (frameOf (throttleBody a dir speed)) = some .throttle) ∧
    (∀ addr offset x, p.classify (frameOf (accessoryBody addr offset x)) = some .accessory) ∧
    ∀ num row a v, p.funcRow num = some row →
      p.classify (frameOf (functionBody row.groupOpcode a v)) = some (.function row.groupOpcode)

/-- R111: the group byte after a call, and ON then OFF, OFF then ON, with the same mask m. -/
def Obligations.GroupByteLaw : Prop :=
  ∀ (row : FuncRow) (v m : Byte),
    groupByte row .on v = v ||| row.onMask ∧ groupByte row .off v = v &&& ~~~row.offMask ∧
    (row.onMask = m → row.offMask = m →
      groupByte row .off (groupByte row .on v) = v &&& ~~~m ∧
      groupByte row .on (groupByte row .off v) = v ||| m)

/-- R113: the order of calls in a group does not matter when no ON mask overlaps an OFF mask (so also when
all are ON or all are OFF); the last call decides each bit of its mask. -/
def Obligations.GroupOrder : Prop :=
  (∀ (l m : List (FuncRow × Switch)) (v : Byte), l.Perm m →
    (∀ x ∈ l, ∀ y ∈ l, x.2 = .on → y.2 = .off → x.1.onMask &&& y.1.offMask = 0x00#8) →
      groupFold l v = groupFold m v) ∧
  ∀ (l : List (FuncRow × Switch)) (row : FuncRow) (v : Byte),
    groupFold (l ++ [(row, .on)]) v &&& row.onMask = row.onMask ∧
    groupFold (l ++ [(row, .off)]) v &&& row.offMask = 0x00#8

/-! ### Unit S -/

/-- R140: OPEN_BUS, in any state. That BusOpen stands in the history as the issuing caller's event is the model's
choice (log 23). -/
def Obligations.OpenBusOutcome : Prop :=
  ∀ s : State,
    (s.busOpen = true → exec .openBus s = .next (s.answered 0x00000002#32)) ∧
    (s.busOpen = false → s.draw.life = .fail →
      exec .openBus s = .next (State.answered 0x00000002#32
        { s with history := s.history ++ [⟨.host s.issuer, .busOpen .fail⟩] })) ∧
    (s.busOpen = false → s.draw.life = .ok () →
      exec .openBus s = .next (State.answered 0x00000000#32
        { s with
          busOpen := true
          history := s.history ++ [⟨.host s.issuer, .busOpen (.ok ())⟩] }))

/-- R141: CLOSE_BUS, while every bus sequencer is idle; the flag is cleared on a failed close too. That BusClose
stands in the history as the issuing caller's event is the model's choice (log 23). -/
def Obligations.CloseBusOutcome : Prop :=
  ∀ s : State, (∀ b ∈ s.bs, b.st = .idle) →
    (s.busOpen = false → exec .closeBus s = .next (s.answered 0x00000002#32)) ∧
    (s.busOpen = true → s.draw.life = .fail →
      exec .closeBus s = .next (State.answered 0x00000002#32
        { s with
          busOpen := false
          history := s.history ++ [⟨.host s.issuer, .busClose .fail⟩] })) ∧
    (s.busOpen = true → s.draw.life = .ok () →
      exec .closeBus s = .next (State.answered 0x00000000#32
        { s with
          busOpen := false
          history := s.history ++ [⟨.host s.issuer, .busClose (.ok ())⟩] }))

/-- R145: CONFIGURE's acceptance on the lowest idle sequencer, and its four writes, each answered ok. What a
failed or blocked write does is BusStepGuard. -/
def Obligations.ConfigureOutcome : Prop :=
  (∀ (s : State) (ctrl : Byte) (j : Nat) (b : Bs), s.bs[j]? = some b → b.st = .idle →
    (∀ i < j, ∀ q, s.bs[i]? = some q → q.st ≠ .idle) →
      (s.busOpen = true → exec (.configure ctrl) s = .next { s with
        bs := s.bs.set j { b with dev := ctrl, owner := s.issuer, st := .cfgDirA }
        callers := Callers.put s.issuer .running s.callers }) ∧
      (s.busOpen = false → exec (.configure ctrl) s = .next (s.answered 0x00000002#32))) ∧
  ∀ (s : State) (j : Nat) (b : Bs), s.bs[j]? = some b → s.busOpen = true → s.draw.write = .ok () →
    (b.st = .cfgDirA → moveStep (.bs j) s = .next { s with
      bs := s.bs.set j { b with st := .cfgDirB }
      history := s.history ++ [⟨.bs j, .busWrite b.dev s.params.offA.dir s.params.cfgDirAIn (.ok ())⟩] }) ∧
    (b.st = .cfgDirB → moveStep (.bs j) s = .next { s with
      bs := s.bs.set j { b with st := .cfgPuA }
      history := s.history ++ [⟨.bs j, .busWrite b.dev s.params.offB.dir s.params.cfgDirBOut (.ok ())⟩] }) ∧
    (b.st = .cfgPuA → moveStep (.bs j) s = .next { s with
      bs := s.bs.set j { b with st := .cfgIeA }
      history := s.history ++
        [⟨.bs j, .busWrite b.dev s.params.offA.pullup s.params.cfgPullupAAll (.ok ())⟩] }) ∧
    (b.st = .cfgIeA → moveStep (.bs j) s = .next { s with
      bs := s.bs.set j { b with st := .idle }
      history := s.history ++ [⟨.bs j, .busWrite b.dev s.params.offA.inten s.params.cfgIntenAAll (.ok ())⟩]
      callers := Callers.put b.owner (.done 0x00000000#32) s.callers })

/-- R148 and R149: MAKE_SENSOR, in any state; the data byte is the port's mask. -/
def Obligations.MakeSensorOutcome : Prop :=
  ∀ (s : State) (ctrl bank port : Byte),
    ((bank = 0x41#8 ∨ bank = 0x42#8) → 1 ≤ port.toNat → port.toNat ≤ 8 →
      exec (.makeSensor ctrl bank port) s = .next (s.answered (BitVec.ofNat 32 (256 * 2 ^ (port.toNat - 1))))) ∧
    (port.toNat < 1 ∨ 8 < port.toNat ∨ (bank ≠ 0x41#8 ∧ bank ≠ 0x42#8) →
      exec (.makeSensor ctrl bank port) s = .next (s.answered 0x00000004#32))

/-- R150: WAIT's acceptance on the lowest idle sequencer. -/
def Obligations.WaitAcceptance : Prop :=
  ∀ (s : State) (ctrl bank port : Byte) (j : Nat) (b : Bs), s.bs[j]? = some b → b.st = .idle →
    (∀ i < j, ∀ q, s.bs[i]? = some q → q.st ≠ .idle) →
      (1 ≤ port.toNat → port.toNat ≤ 8 →
        (bank = 0x41#8 → s.busOpen = true → exec (.wait ctrl bank port) s = .next { s with
          bs := s.bs.set j
            { b with
              dev := ctrl, cap := s.params.offA.cap, ind := s.params.offB.data
              mask := BitVec.ofNat 8 (2 ^ (port.toNat - 1)), owner := s.issuer, st := .wUnlatch }
          callers := Callers.put s.issuer .running s.callers }) ∧
        (bank = 0x42#8 → s.busOpen = true → exec (.wait ctrl bank port) s = .next { s with
          bs := s.bs.set j
            { b with
              dev := ctrl, cap := s.params.offB.cap, ind := s.params.offB.data
              mask := BitVec.ofNat 8 (2 ^ (port.toNat - 1)), owner := s.issuer, st := .wUnlatch }
          callers := Callers.put s.issuer .running s.callers }) ∧
        (bank = 0x41#8 ∨ bank = 0x42#8 → s.busOpen = false →
          exec (.wait ctrl bank port) s = .next (s.answered 0x00000002#32))) ∧
      (port.toNat < 1 ∨ 8 < port.toNat ∨ (bank ≠ 0x41#8 ∧ bank ≠ 0x42#8) →
        exec (.wait ctrl bank port) s = .next (s.answered 0x00000004#32))

/-- R151 to R157: the steps of a WAIT whose transaction is answered. -/
def Obligations.WaitStepOutcome : Prop :=
  ∀ (s : State) (j : Nat) (b : Bs), s.bs[j]? = some b →
    (s.busOpen = true → ∀ v, s.draw.read = .ok v →
      (b.st = .wUnlatch → moveStep (.bs j) s = .next { s with
        bs := s.bs.set j { b with st := .wIoffRd }
        history := s.history ++ [⟨.bs j, .busRead b.dev b.cap (.ok v)⟩] }) ∧
      (b.st = .wIoffRd → moveStep (.bs j) s = .next { s with
        bs := s.bs.set j { b with st := .wIoffWr, tmp := v }
        history := s.history ++ [⟨.bs j, .busRead b.dev b.ind (.ok v)⟩] }) ∧
      (b.st = .wPollRd → v &&& b.mask ≠ 0x00#8 → moveStep (.bs j) s = .next { s with
        bs := s.bs.set j { b with st := .wSleep, tmp := v }
        history := s.history ++ [⟨.bs j, .busRead b.dev b.cap (.ok v)⟩] }) ∧
      (b.st = .wPollRd → v &&& b.mask = 0x00#8 → moveStep (.bs j) s = .next { s with
        bs := s.bs.set j { b with st := .wIonRd, tmp := v }
        history := s.history ++ [⟨.bs j, .busRead b.dev b.cap (.ok v)⟩] }) ∧
      (b.st = .wIonRd → moveStep (.bs j) s = .next { s with
        bs := s.bs.set j { b with st := .wIonWr, tmp := v }
        history := s.history ++ [⟨.bs j, .busRead b.dev b.ind (.ok v)⟩] })) ∧
    (s.busOpen = true → s.draw.write = .ok () →
      (b.st = .wIoffWr → moveStep (.bs j) s = .next { s with
        bs := s.bs.set j { b with st := .wPollRd }
        history := s.history ++ [⟨.bs j, .busWrite b.dev b.ind (b.tmp &&& ~~~b.mask) (.ok ())⟩] }) ∧
      (b.st = .wIonWr → moveStep (.bs j) s = .next { s with
        bs := s.bs.set j { b with st := .idle }
        history := s.history ++ [⟨.bs j, .busWrite b.dev b.ind (b.tmp ||| b.mask) (.ok ())⟩]
        callers := Callers.put b.owner (.done 0x00000000#32) s.callers })) ∧
    (b.st = .wSleep → moveStep (.bs j) s = .next { s with
      bs := s.bs.set j { b with st := .wPollRd }
      history := s.history ++ [⟨.bs j, .sleep 1000⟩] })

/-- R142: BUS_STEP, for every state of a bus sequencer that performs a transaction. -/
def Obligations.BusStepGuard : Prop :=
  ∀ (s : State) (j : Nat) (b : Bs), s.bs[j]? = some b →
    (let ended : State :=
        { s with
          bs := s.bs.set j { b with st := .idle }
          callers := Callers.put b.owner (.done 0x00000002#32) s.callers }
    (s.busOpen = false → b.st.reads = true ∨ b.st.writes = true → moveStep (.bs j) s = .next ended) ∧
    (s.busOpen = true → b.st.reads = true →
      (s.draw.read = .blocked → moveStep (.bs j) s = .next s) ∧
      (s.draw.read = .fail → moveStep (.bs j) s = .next { ended with
        busOpen := false
        history := s.history ++ [⟨.bs j, .busRead b.dev b.readOff .fail⟩] })) ∧
    (s.busOpen = true → b.st.writes = true →
      (s.draw.write = .blocked → moveStep (.bs j) s = .next s) ∧
      (s.draw.write = .fail → moveStep (.bs j) s = .next { ended with
        busOpen := false
        history := s.history ++
          [⟨.bs j, .busWrite b.dev (b.writeArgs s.params).1 (b.writeArgs s.params).2 .fail⟩] })))

/-! ### Acceptance, results, the host's side -/

/-- R73: a command whose resource is not free is held with nothing changed: the seven serial commands while
FS is busy, CONFIGURE and WAIT while every bus sequencer is busy, CLOSE_BUS while one is. The local commands
are accepted in any state (their own outcomes), and the lowest idle sequencer is taken (ConfigureOutcome,
WaitAcceptance). -/
def Obligations.HeldWhileBusy : Prop :=
  ∀ s : State,
    (s.fs.st ≠ .idle →
      exec .openSerial s = .next s ∧ exec .closeSerial s = .next s ∧
      (∀ slot dir speed, exec (.throttle slot dir speed) s = .next s) ∧
      (∀ slot num sw, exec (.function slot num sw) s = .next s) ∧
      ∀ addr offset, exec (.activate addr offset) s = .next s ∧
        exec (.deactivate addr offset) s = .next s) ∧
    ((∀ b ∈ s.bs, b.st ≠ .idle) →
      (∀ ctrl, exec (.configure ctrl) s = .next s) ∧
      ∀ ctrl bank port, exec (.wait ctrl bank port) s = .next s) ∧
    ((∃ b ∈ s.bs, b.st ≠ .idle) → exec .closeBus s = .next s)

/-- R80: the fields of a result word, and the codes' numbers. -/
def Obligations.ResultWordFields : Prop :=
  (∀ (k : ResultCode) (d : Byte), (hrw k d).toNat = 256 * d.toNat + (hrw k 0x00#8).toNat ∧
    (hrw k 0x00#8).toNat ≤ 5) ∧
  hrw .ok 0x00#8 = 0#32 ∧ hrw .transportError 0x00#8 = 1#32 ∧ hrw .busError 0x00#8 = 2#32 ∧
  hrw .protocolError 0x00#8 = 3#32 ∧ hrw .invalidArgument 0x00#8 = 4#32 ∧
  hrw .illegalCommand 0x00#8 = 5#32

/-- R80: every step keeps every pending and returned result a word of R80's layout, with a listed code, and
with data only beside OK. -/
def Obligations.ResultWordsStayLegal : Prop :=
  ∀ s t : State, s.resultsOk → step s = .next t → t.resultsOk

/-- R34: a caller with nothing outstanding can issue; one with a command outstanding issues no other; it
receives the result that is pending, and then has nothing outstanding. That a move which is not enabled changes
nothing, and that a result waits for a receive move, is the model's choice (log 6, 7). -/
def Obligations.OneCommandPerCaller : Prop :=
  ∀ (s : State) (c : CallerId) (w : Word), s.callersOk →
    (s.caller c = none → ∃ t, moveStep (.issue c w) s = .next t ∧ t.caller c = some (.held w) ∧
      (∀ d, d ≠ c → t.caller d = s.caller d) ∧ t = { s with callers := t.callers }) ∧
    (s.caller c ≠ none → moveStep (.issue c w) s = .next s) ∧
    (∀ r, s.caller c = some (.done r) → ∃ t, moveStep (.receive c) s = .next t ∧ t.caller c = none ∧
      (∀ d, d ≠ c → t.caller d = s.caller d) ∧
      t = { s with callers := t.callers, results := s.results ++ [(c, r)] }) ∧
    ((∀ r, s.caller c ≠ some (.done r)) → moveStep (.receive c) s = .next s)

/-! ### Reset -/

/-- R38, for every parameter set: flags, slots, sequencers and callers after reset, and a fault on any read of
a register that has no value. -/
def Obligations.ResetState : Prop :=
  ∀ p : Params,
    (let s := State.resetWith p
    s.serialOpen = false ∧ s.busOpen = false ∧ s.diag = false ∧ s.slots.length = p.nt ∧
    (∀ sl ∈ s.slots, sl.bound = false ∧ sl.readAddr = .error (.noValue .slotAddr) ∧
      ∀ g, sl.readGrp g = .error (.noValue .slotGrp)) ∧
    s.fs.st = .idle ∧ s.fs.readBuf = .error (.noValue .fsBuf) ∧
    s.fs.readAttempt = .error (.noValue .fsAttempt) ∧ s.fs.readOwner = .error (.noValue .fsOwner) ∧
    s.bs.length = p.np ∧
    (∀ b ∈ s.bs, b.st = .idle ∧ b.readDev = .error (.noValue .bsDev) ∧
      b.readCap = .error (.noValue .bsCap) ∧ b.readInd = .error (.noValue .bsInd) ∧
      b.readMask = .error (.noValue .bsMask) ∧ b.readTmp = .error (.noValue .bsTmp) ∧
      b.readOwner = .error (.noValue .bsOwner)) ∧
    ∀ c, s.caller c = none)

/-- R230 and R231: the reset event, in any state, gives every piece of block state its reset value, drops every
command with no result delivered, and performs no transaction. That the record of past events and the results
already returned stay is the model's choice (log 8). -/
def Obligations.ResetEventOutcome : Prop :=
  ∀ s : State, ∃ t, moveStep .reset s = .next t ∧
    t.serialOpen = false ∧ t.busOpen = false ∧ t.diag = false ∧
    t.slots.length = s.params.nt ∧ (∀ sl ∈ t.slots, sl.bound = false) ∧ t.fs.st = .idle ∧
    t.bs.length = s.params.np ∧ (∀ b ∈ t.bs, b.st = .idle) ∧ (∀ c, t.caller c = none) ∧
    t.params = s.params ∧ t.history = s.history ∧ t.results = s.results

/-- R232 with R201: from reset, for every parameter set and caller, the sends, CLOSE, CLOSE_BUS, CONFIGURE and
WAIT each end in an error and change nothing. THROTTLE and FUNCTION end in InvalidArgument, by R201's order
(log 21). -/
def Obligations.ResetLinksClosed : Prop :=
  ∀ (p : Params) (c : CallerId), p.wellFormed = true →
    (let s := (State.resetWith p).setIssuer c
    exec .closeSerial s = .next (s.answered 0x00000001#32) ∧
    (∀ slot dir speed, exec (.throttle slot dir speed) s = .next (s.answered 0x00000004#32)) ∧
    (∀ slot num sw, exec (.function slot num sw) s = .next (s.answered 0x00000004#32)) ∧
    (∀ addr offset, exec (.activate addr offset) s = .next (s.answered 0x00000001#32) ∧
      exec (.deactivate addr offset) s = .next (s.answered 0x00000001#32)) ∧
    exec .closeBus s = .next (s.answered 0x00000002#32) ∧
    (∀ ctrl, exec (.configure ctrl) s = .next (s.answered 0x00000002#32)) ∧
    ∀ ctrl bank port, exec (.wait ctrl bank port) s = .next (s.answered
      (if 1 ≤ port.toNat ∧ port.toNat ≤ 8 ∧ (bank = 0x41#8 ∨ bank = 0x42#8) then 0x00000002#32
        else 0x00000004#32)))

/-! ### Invariants and whole-machine rules -/

/-- The reset state meets the invariant, for every parameter set the spec allows. -/
def Obligations.InvAtReset : Prop :=
  ∀ p : Params, p.wellFormed = true → (State.resetWith p).Inv

/-- Every step keeps the invariant: the register files' shape, the caller table's canonical form, exactly the
owners of busy sequencers running, a legal frame and an open link while FS is busy, a port's mask and the
right offsets while a WAIT runs. -/
def Obligations.StepKeepsInv : Prop :=
  ∀ s t : State, s.Inv → step s = .next t → t.Inv

/-- Every step keeps the caller table in its canonical form (R34), in any state. -/
def Obligations.StepKeepsCallerTable : Prop :=
  ∀ s t : State, s.callersOk → step s = .next t → t.callersOk

/-- With a parameter set the spec allows, every step answers a next state: no rule reads a register that has no
value (R38), and no frame is refused. -/
def Obligations.StepAlwaysCompletes : Prop :=
  ∀ s : State, s.params.wellFormed = true → ∃ t, step s = .next t

/-- R64: the parameters are fixed for the block's lifetime; R8: a set that breaks its conditions is rejected. -/
def Obligations.ParametersFixed : Prop :=
  ∀ s : State, (∀ t, step s = .next t → t.params = s.params) ∧
    (s.params.wellFormed = false → step s = .refused .parametersIllFormed)

/-- R26 with R104: only BIND_TRAIN, FUNCTION and reset change a train slot, the two commands only the slot they
name; BIND_TRAIN leaves it bound; FUNCTION changes no address and unbinds nothing. -/
def Obligations.SlotsChangeOnlyBy : Prop :=
  ∀ s t : State, step s = .next t → t.slots ≠ s.slots →
    s.nextTurn.move = .reset ∨
    (∃ slot addr, acceptsInstr s (.bindTrain slot addr) ∧
      (∀ n, n ≠ slot.toNat → t.slots[n]? = s.slots[n]?) ∧
      ∃ sl', t.slots[slot.toNat]? = some sl' ∧ sl'.bound = true) ∨
    ∃ slot num sw, acceptsInstr s (.function slot num sw) ∧
      (∀ n, n ≠ slot.toNat → t.slots[n]? = s.slots[n]?) ∧
      ∀ sl, s.slots[slot.toNat]? = some sl →
        ∃ sl', t.slots[slot.toNat]? = some sl' ∧ sl'.addr = sl.addr ∧ sl'.bound = sl.bound

/-- R22, R23 and R24: only OPEN sets serial_open, only OPEN_BUS sets bus_open; they are cleared only by their
close, by a failed transaction of theirs, or by reset; diag changes only by SET_DIAG or reset. -/
def Obligations.FlagsChangeOnlyBy : Prop :=
  ∀ s t : State, step s = .next t →
    (s.serialOpen = false → t.serialOpen = true → acceptsInstr s .openSerial) ∧
    (s.serialOpen = true → t.serialOpen = false →
      s.nextTurn.move = .reset ∨ acceptsInstr s .closeSerial ∨
      (s.nextTurn.move = .fs ∧
        ((s.fs.st = .write ∧ s.nextTurn.draw.write = .fail) ∨
          (s.fs.st = .drain ∧ s.nextTurn.draw.drain = .fail)))) ∧
    (s.busOpen = false → t.busOpen = true → acceptsInstr s .openBus) ∧
    (s.busOpen = true → t.busOpen = false →
      s.nextTurn.move = .reset ∨ acceptsInstr s .closeBus ∨
      ∃ j b, s.nextTurn.move = .bs j ∧ s.bs[j]? = some b ∧
        ((b.st.reads = true ∧ s.nextTurn.draw.read = .fail) ∨
          (b.st.writes = true ∧ s.nextTurn.draw.write = .fail))) ∧
    (t.diag ≠ s.diag → s.nextTurn.move = .reset ∨ ∃ en, acceptsInstr s (.setDiag en))

/-- R24 and R121: two states that differ only in diag and in diagnostic events step alike: no frame, retry
count, result or other event depends on diag. -/
def Obligations.DiagIsSideChannel : Prop :=
  ∀ s t : State, s.sansEcho = t.sansEcho → agreeUpTo State.sansEcho (step s) (step t)

/-- R38: what the registers without a value hold makes no difference to anything else (so the contents the
model names for them, log 2, are not seen). -/
def Obligations.NoValueRegistersUnseen : Prop :=
  ∀ s t : State, s.scrub = t.scrub → agreeUpTo State.scrub (step s) (step t)

/-- R5 and R14: a step appends to the history and removes nothing, and what it appends is at most one
transaction with the diagnostic events that echo it. -/
def Obligations.OneTransactionPerStep : Prop :=
  ∀ s t : State, step s = .next t →
    ∃ es, t.history = s.history ++ es ∧ (es.filter fun e => !e.event.isDiag).length ≤ 1 ∧
      (s.diag = false → ∀ e ∈ es, e.event.isDiag = false)

/-- R55: every bus access of a step is one R55's table allows: reads of CAP and of the indicator register, the
four configuration writes with their values, writes of the indicator register. -/
def Obligations.BusAccessesAllowed : Prop :=
  ∀ s t : State, s.Inv → step s = .next t → ∀ e ∈ newEvents s t, e.event.busAllowed s.params = true

/-- R51 and R50: a serial write is FS's, at its WRITE, of the whole of fs.buf. -/
def Obligations.SerialWritesAreTheBuffer : Prop :=
  ∀ (s t : State) (e : Entry) (bytes : List Byte) (r : Reply Unit), step s = .next t →
    e ∈ newEvents s t → e.event = .serWrite bytes r →
      s.nextTurn.move = .fs ∧ e.agent = .fs ∧ s.fs.st = .write ∧ bytes = s.fs.buf

/-- R61, R63 and R158: a sequencer's registers change only by its own step, by reset, or, when it is idle, by the
acceptance of a command for it. So no command cancels a WAIT or a send. -/
def Obligations.SequencersMoveThemselves : Prop :=
  ∀ s t : State, step s = .next t →
    (t.fs ≠ s.fs → s.nextTurn.move = .fs ∨ s.nextTurn.move = .reset ∨
      (s.fs.st = .idle ∧ ∃ c, s.nextTurn.move = .accept c)) ∧
    ∀ j, t.bs[j]? ≠ s.bs[j]? → s.nextTurn.move = .bs j ∨ s.nextTurn.move = .reset ∨
      ∃ c b, s.nextTurn.move = .accept c ∧ s.bs[j]? = some b ∧ b.st = .idle

/-- R33: a WAIT becomes ARMED only by the write that turns the indicator off, and ends OK only by the write
that turns it on. -/
def Obligations.SensorPhasesByIndicator : Prop :=
  ∀ (s t : State) (j : Nat) (b q : Bs), step s = .next t → s.bs[j]? = some b → t.bs[j]? = some q →
    (b.st.phase ≠ some .armed → q.st.phase = some .armed →
      b.st = .wIoffWr ∧
      newEvents s t = [⟨.bs j, .busWrite b.dev b.ind (b.tmp &&& ~~~b.mask) (.ok ())⟩]) ∧
    (b.st.inWait = true → q.st = .idle → t.caller b.owner = some (.done 0x00000000#32) →
      s.caller b.owner = some .running →
        b.st = .wIonWr ∧ newEvents s t = [⟨.bs j, .busWrite b.dev b.ind (b.tmp ||| b.mask) (.ok ())⟩])

/-! ### Runs of one sequencer -/

/-- R122 and R123, diagnostics off: five attempts whose drains hold no ENQ end the send with ProtocolError
after exactly five writes, the link still open. -/
def Obligations.NeverAcknowledgedSend : Prop :=
  ∀ (s : State) (rxs : List (List Byte)) (rest : List Turn), s.params.wellFormed = true →
    s.diag = false → s.fs.st = .write → s.fs.attempt = 0 → rxs.length = 5 →
    (∀ rx ∈ rxs, 0x05#8 ∉ rx) → s.script = rxs.flatMap attemptTurns ++ rest →
      ∃ t, runSteps 15 s = .next t ∧ t.history = s.history ++ rxs.flatMap (attemptEvents s.fs.buf) ∧
        t.caller s.fs.owner = some (.done 0x00000003#32) ∧ t.fs.st = .idle ∧
        t.serialOpen = s.serialOpen ∧ t.slots = s.slots ∧ t.script = rest

/-- R122 and R123, diagnostics off: an ENQ anywhere in the drain of attempt n + 1, n at most 4 drains without it
having gone before, ends the send with OK after exactly n + 1 writes. -/
def Obligations.AcknowledgedSend : Prop :=
  ∀ (s : State) (rxs : List (List Byte)) (last : List Byte) (rest : List Turn),
    s.params.wellFormed = true → s.diag = false → s.fs.st = .write → s.fs.attempt = 0 →
    rxs.length ≤ 4 → (∀ rx ∈ rxs, 0x05#8 ∉ rx) → 0x05#8 ∈ last →
    s.script = (rxs ++ [last]).flatMap attemptTurns ++ rest →
      ∃ t, runSteps (3 * (rxs.length + 1)) s = .next t ∧
        t.history = s.history ++ (rxs ++ [last]).flatMap (attemptEvents s.fs.buf) ∧
        t.caller s.fs.owner = some (.done 0x00000000#32) ∧ t.fs.st = .idle ∧
        t.serialOpen = s.serialOpen ∧ t.script = rest

/-- R125 as a lemma about every step: while FS is busy with fewer than MAX_ATTEMPTS attempts counted, fsRank is 1 to
15, and 15 at the first WRITE. A step of FS whose own transaction does not answer blocked lowers it and goes on
with the same frame for the same owner, or ends the send with a result; every other step but reset leaves FS's
registers alone. -/
def Obligations.FsRankFalls : Prop :=
  ∀ s t : State, s.fs.st ≠ .idle → s.fs.attempt < 5 → step s = .next t →
    (1 ≤ s.fsRank ∧ s.fsRank ≤ 15 ∧ (s.fs.st = .write → s.fs.attempt = 0 → s.fsRank = 15)) ∧
    (s.fsUnblocked = true →
      (t.fs.st ≠ .idle ∧ t.fs.attempt < 5 ∧ t.fsRank < s.fsRank ∧ t.fs.buf = s.fs.buf ∧
        t.fs.owner = s.fs.owner) ∨
      (t.fs.st = .idle ∧
        (t.caller s.fs.owner = some (.done 0x00000000#32) ∨
          t.caller s.fs.owner = some (.done 0x00000001#32) ∨
          t.caller s.fs.owner = some (.done 0x00000003#32)))) ∧
    (s.fsUnblocked = false → s.nextTurn.move ≠ .reset → t.fs = s.fs)

/-- R125: from its first WRITE a send reaches FINISH within 15 FS steps whose transactions do not answer blocked,
wherever they fall among blocked FS steps and the turns of other agents, as long as there is no reset. -/
def Obligations.SendEndsWithinFifteenSteps : Prop :=
  ∀ (s : State) (n : Nat), s.params.wellFormed = true → s.fs.st = .write → s.fs.attempt = 0 →
    resetFree n s = true → 15 ≤ fsTurnsTaken n s →
      ∃ m t, m ≤ n ∧ fsTurnsTaken m s ≤ 15 ∧ runSteps m s = .next t ∧ t.fs.st = .idle ∧
        ∃ w, t.caller s.fs.owner = some (.done w)

/-- R146: a CONFIGURE whose four writes are answered ok appends exactly those four events, in that order, to the
device, and ends OK. -/
def Obligations.ConfigureWritesFour : Prop :=
  ∀ (s : State) (j : Nat) (b : Bs) (rest : List Turn), s.params.wellFormed = true →
    s.busOpen = true → s.bs[j]? = some b → b.st = .cfgDirA →
    s.script = List.replicate 4 (bsTurnWrite j) ++ rest →
      ∃ t, runSteps 4 s = .next t ∧ t.history = s.history ++ configureEvents s.params j b.dev ∧
        t.caller b.owner = some (.done 0x00000000#32) ∧ t.bs = s.bs.set j { b with st := .idle } ∧
        t.busOpen = true ∧ t.script = rest

/-- R158 to R160: the events of a WAIT that ends OK: the unlatch read, the indicator off, one sleep after each
poll that saw the bit set, the poll that saw it clear, the indicator on. The unlatch value u decides nothing. -/
def Obligations.WaitEventShape : Prop :=
  ∀ (s : State) (j : Nat) (b : Bs) (u i1 last i2 : Byte) (polls : List Byte) (rest : List Turn),
    s.params.wellFormed = true → s.busOpen = true → s.bs[j]? = some b → b.st = .wUnlatch →
    (∀ v ∈ polls, v &&& b.mask ≠ 0x00#8) → last &&& b.mask = 0x00#8 →
    s.script = [bsTurnRead j u, bsTurnRead j i1, bsTurnWrite j] ++ polls.flatMap (pollTurns j) ++
      [bsTurnRead j last, bsTurnRead j i2, bsTurnWrite j] ++ rest →
      ∃ t, runSteps (2 * polls.length + 6) s = .next t ∧
        t.history = s.history ++
          [⟨.bs j, .busRead b.dev b.cap (.ok u)⟩, ⟨.bs j, .busRead b.dev b.ind (.ok i1)⟩,
            ⟨.bs j, .busWrite b.dev b.ind (i1 &&& ~~~b.mask) (.ok ())⟩] ++
          polls.flatMap (pollEvents j b.dev b.cap) ++
          [⟨.bs j, .busRead b.dev b.cap (.ok last)⟩, ⟨.bs j, .busRead b.dev b.ind (.ok i2)⟩,
            ⟨.bs j, .busWrite b.dev b.ind (i2 ||| b.mask) (.ok ())⟩] ∧
        t.caller b.owner = some (.done 0x00000000#32) ∧
        (∃ q, t.bs[j]? = some q ∧ q.st = .idle) ∧ t.script = rest

/-- R162: two WAITs on one device whose indicator read-modify-writes interleave lose the first one's clear: the
last byte written has the first mask's bits as they were read. -/
def Obligations.IndicatorUpdateLost : Prop :=
  ∀ (s : State) (i j : Nat) (a b : Bs) (x : Byte) (rest : List Turn), s.params.wellFormed = true →
    s.busOpen = true → i ≠ j → s.bs[i]? = some a → s.bs[j]? = some b → a.st = .wIoffRd →
    b.st = .wIoffRd → a.dev = b.dev → a.ind = b.ind → a.mask &&& b.mask = 0x00#8 →
    s.script = [bsTurnRead i x, bsTurnRead j x, bsTurnWrite i, bsTurnWrite j] ++ rest →
      ∃ t, runSteps 4 s = .next t ∧
        t.history = s.history ++
          [⟨.bs i, .busRead a.dev a.ind (.ok x)⟩, ⟨.bs j, .busRead a.dev a.ind (.ok x)⟩,
            ⟨.bs i, .busWrite a.dev a.ind (x &&& ~~~a.mask) (.ok ())⟩,
            ⟨.bs j, .busWrite a.dev a.ind (x &&& ~~~b.mask) (.ok ())⟩] ∧
        (x &&& ~~~b.mask) &&& a.mask = x &&& a.mask
end

