-- ==== Sys2Proof/Laws/Bits.lean ====
section
/-! SUPPORT. The numbers behind the bit fields: concatenation, fields, the one-bit operands and the two bytes of
a train address. -/

namespace Sys2Proof

theorem append_toNat {m n : Nat} (x : BitVec m) (y : BitVec n) :
    (x ++ y).toNat = x.toNat * 2 ^ n + y.toNat := by
  rw [BitVec.toNat_append, ← Nat.shiftLeft_add_eq_or_of_lt y.isLt, Nat.shiftLeft_eq]

theorem field_toNat {n : Nat} (lo len : Nat) (x : BitVec n) :
    (x.extractLsb' lo len).toNat = x.toNat / 2 ^ lo % 2 ^ len := by
  rw [BitVec.extractLsb'_toNat, Nat.shiftRight_eq_div_pow]

@[simp] theorem Dir.ofBit_bit (d : Dir) : Dir.ofBit d.bit = d := by cases d <;> rfl

@[simp] theorem Dir.bit_ofBit (b : BitVec 1) : (Dir.ofBit b).bit = b := by revert b; decide

@[simp] theorem Switch.ofBit_bit (d : Switch) : Switch.ofBit d.bit = d := by cases d <;> rfl

@[simp] theorem Switch.bit_ofBit (b : BitVec 1) : (Switch.ofBit b).bit = b := by revert b; decide

theorem addrHi_toNat (a : DccAddr) : (addrHi a).toNat = a.toNat / 256 := by
  have := a.isLt
  unfold addrHi
  rw [BitVec.toNat_setWidth, field_toNat]
  omega

theorem addrLo_toNat (a : DccAddr) : (addrLo a).toNat = a.toNat % 256 := by
  unfold addrLo
  rw [field_toNat]
  omega

theorem addrOf_toNat (hi lo : Byte) : (addrOf hi lo).toNat = hi.toNat % 64 * 256 + lo.toNat := by
  unfold addrOf
  refine (append_toNat _ _).trans ?_
  rw [field_toNat]
  omega

/-- The two bytes of an address give it back (20_memory R58). -/
theorem addrOf_hi_lo (a : DccAddr) : addrOf (addrHi a) (addrLo a) = a := by
  apply BitVec.eq_of_toNat_eq
  rw [addrOf_toNat, addrHi_toNat, addrLo_toNat]
  have := a.isLt
  omega

/-- Bits 7..6 of an address high byte are 00 (30_encoding R90 item 2). -/
theorem addrHi_top (a : DccAddr) : (addrHi a).extractLsb' 6 2 = 0#2 := by
  apply BitVec.eq_of_toNat_eq
  rw [field_toNat, addrHi_toNat]
  have := a.isLt
  simp
  omega

theorem addrHi_addrOf {hi lo : Byte} (h : hi.extractLsb' 6 2 = 0#2) : addrHi (addrOf hi lo) = hi := by
  apply BitVec.eq_of_toNat_eq
  have h' := congrArg BitVec.toNat h
  rw [field_toNat] at h'
  rw [addrHi_toNat, addrOf_toNat]
  have := hi.isLt
  have := lo.isLt
  simp at h'
  omega

theorem addrLo_addrOf (hi lo : Byte) : addrLo (addrOf hi lo) = lo := by
  apply BitVec.eq_of_toNat_eq
  rw [addrLo_toNat, addrOf_toNat]
  have := hi.isLt
  have := lo.isLt
  omega

/-- A word with reserved bits decodes only when they are 0 (30_encoding R74). -/
theorem Decoded.ifZero_ok {n : Nat} {r : BitVec n} {i j : Instr} (h : Decoded.ifZero r i = .ok j) :
    r = 0#n ∧ i = j := by
  unfold Decoded.ifZero at h
  split at h <;> simp_all

end Sys2Proof
end

