-- ==== Sys2Proof/Laws/State.lean ====
section
/-! SUPPORT. What each update of the state does to each field: one lemma a field, so that no proof unfolds a
record update. -/

namespace Sys2Proof.Machine

/-! ### setCaller -/

@[simp] theorem State.setCaller_params (c : CallerId) (v : CallerSt) (s : State) :
    (s.setCaller c v).params = s.params := rfl
@[simp] theorem State.setCaller_serialOpen (c : CallerId) (v : CallerSt) (s : State) :
    (s.setCaller c v).serialOpen = s.serialOpen := rfl
@[simp] theorem State.setCaller_busOpen (c : CallerId) (v : CallerSt) (s : State) :
    (s.setCaller c v).busOpen = s.busOpen := rfl
@[simp] theorem State.setCaller_diag (c : CallerId) (v : CallerSt) (s : State) :
    (s.setCaller c v).diag = s.diag := rfl
@[simp] theorem State.setCaller_slots (c : CallerId) (v : CallerSt) (s : State) :
    (s.setCaller c v).slots = s.slots := rfl
@[simp] theorem State.setCaller_fs (c : CallerId) (v : CallerSt) (s : State) :
    (s.setCaller c v).fs = s.fs := rfl
@[simp] theorem State.setCaller_bs (c : CallerId) (v : CallerSt) (s : State) :
    (s.setCaller c v).bs = s.bs := rfl
@[simp] theorem State.setCaller_callers (c : CallerId) (v : CallerSt) (s : State) :
    (s.setCaller c v).callers = Callers.put c v s.callers := rfl
@[simp] theorem State.setCaller_history (c : CallerId) (v : CallerSt) (s : State) :
    (s.setCaller c v).history = s.history := rfl
@[simp] theorem State.setCaller_results (c : CallerId) (v : CallerSt) (s : State) :
    (s.setCaller c v).results = s.results := rfl
@[simp] theorem State.setCaller_script (c : CallerId) (v : CallerSt) (s : State) :
    (s.setCaller c v).script = s.script := rfl
@[simp] theorem State.setCaller_tick (c : CallerId) (v : CallerSt) (s : State) :
    (s.setCaller c v).tick = s.tick := rfl
@[simp] theorem State.setCaller_draw (c : CallerId) (v : CallerSt) (s : State) :
    (s.setCaller c v).draw = s.draw := rfl
@[simp] theorem State.setCaller_issuer (c : CallerId) (v : CallerSt) (s : State) :
    (s.setCaller c v).issuer = s.issuer := rfl

/-! ### clearCaller -/

@[simp] theorem State.clearCaller_params (c : CallerId) (s : State) :
    (s.clearCaller c).params = s.params := rfl
@[simp] theorem State.clearCaller_serialOpen (c : CallerId) (s : State) :
    (s.clearCaller c).serialOpen = s.serialOpen := rfl
@[simp] theorem State.clearCaller_busOpen (c : CallerId) (s : State) :
    (s.clearCaller c).busOpen = s.busOpen := rfl
@[simp] theorem State.clearCaller_diag (c : CallerId) (s : State) : (s.clearCaller c).diag = s.diag := rfl
@[simp] theorem State.clearCaller_slots (c : CallerId) (s : State) : (s.clearCaller c).slots = s.slots := rfl
@[simp] theorem State.clearCaller_fs (c : CallerId) (s : State) : (s.clearCaller c).fs = s.fs := rfl
@[simp] theorem State.clearCaller_bs (c : CallerId) (s : State) : (s.clearCaller c).bs = s.bs := rfl
@[simp] theorem State.clearCaller_callers (c : CallerId) (s : State) :
    (s.clearCaller c).callers = Callers.erase c s.callers := rfl
@[simp] theorem State.clearCaller_history (c : CallerId) (s : State) :
    (s.clearCaller c).history = s.history := rfl
@[simp] theorem State.clearCaller_results (c : CallerId) (s : State) :
    (s.clearCaller c).results = s.results := rfl
@[simp] theorem State.clearCaller_script (c : CallerId) (s : State) :
    (s.clearCaller c).script = s.script := rfl
@[simp] theorem State.clearCaller_tick (c : CallerId) (s : State) : (s.clearCaller c).tick = s.tick := rfl
@[simp] theorem State.clearCaller_draw (c : CallerId) (s : State) : (s.clearCaller c).draw = s.draw := rfl
@[simp] theorem State.clearCaller_issuer (c : CallerId) (s : State) :
    (s.clearCaller c).issuer = s.issuer := rfl

/-! ### log -/

@[simp] theorem State.log_params (a : Agent) (e : Event) (s : State) : (s.log a e).params = s.params := rfl
@[simp] theorem State.log_serialOpen (a : Agent) (e : Event) (s : State) :
    (s.log a e).serialOpen = s.serialOpen := rfl
@[simp] theorem State.log_busOpen (a : Agent) (e : Event) (s : State) : (s.log a e).busOpen = s.busOpen := rfl
@[simp] theorem State.log_diag (a : Agent) (e : Event) (s : State) : (s.log a e).diag = s.diag := rfl
@[simp] theorem State.log_slots (a : Agent) (e : Event) (s : State) : (s.log a e).slots = s.slots := rfl
@[simp] theorem State.log_fs (a : Agent) (e : Event) (s : State) : (s.log a e).fs = s.fs := rfl
@[simp] theorem State.log_bs (a : Agent) (e : Event) (s : State) : (s.log a e).bs = s.bs := rfl
@[simp] theorem State.log_callers (a : Agent) (e : Event) (s : State) : (s.log a e).callers = s.callers := rfl
@[simp] theorem State.log_history (a : Agent) (e : Event) (s : State) :
    (s.log a e).history = s.history ++ [⟨a, e⟩] := rfl
@[simp] theorem State.log_results (a : Agent) (e : Event) (s : State) : (s.log a e).results = s.results := rfl
@[simp] theorem State.log_script (a : Agent) (e : Event) (s : State) : (s.log a e).script = s.script := rfl
@[simp] theorem State.log_tick (a : Agent) (e : Event) (s : State) : (s.log a e).tick = s.tick := rfl
@[simp] theorem State.log_draw (a : Agent) (e : Event) (s : State) : (s.log a e).draw = s.draw := rfl
@[simp] theorem State.log_issuer (a : Agent) (e : Event) (s : State) : (s.log a e).issuer = s.issuer := rfl

/-! ### echoTx -/

@[simp] theorem State.echoTx_params (bytes : List Byte) (s : State) : (s.echoTx bytes).params = s.params := by
  unfold State.echoTx; split <;> rfl
@[simp] theorem State.echoTx_serialOpen (bytes : List Byte) (s : State) :
    (s.echoTx bytes).serialOpen = s.serialOpen := by
  unfold State.echoTx; split <;> rfl
@[simp] theorem State.echoTx_busOpen (bytes : List Byte) (s : State) :
    (s.echoTx bytes).busOpen = s.busOpen := by
  unfold State.echoTx; split <;> rfl
@[simp] theorem State.echoTx_diag (bytes : List Byte) (s : State) : (s.echoTx bytes).diag = s.diag := by
  unfold State.echoTx; split <;> rfl
@[simp] theorem State.echoTx_slots (bytes : List Byte) (s : State) : (s.echoTx bytes).slots = s.slots := by
  unfold State.echoTx; split <;> rfl
@[simp] theorem State.echoTx_fs (bytes : List Byte) (s : State) : (s.echoTx bytes).fs = s.fs := by
  unfold State.echoTx; split <;> rfl
@[simp] theorem State.echoTx_bs (bytes : List Byte) (s : State) : (s.echoTx bytes).bs = s.bs := by
  unfold State.echoTx; split <;> rfl
@[simp] theorem State.echoTx_callers (bytes : List Byte) (s : State) :
    (s.echoTx bytes).callers = s.callers := by
  unfold State.echoTx; split <;> rfl
@[simp] theorem State.echoTx_results (bytes : List Byte) (s : State) :
    (s.echoTx bytes).results = s.results := by
  unfold State.echoTx; split <;> rfl
@[simp] theorem State.echoTx_script (bytes : List Byte) (s : State) : (s.echoTx bytes).script = s.script := by
  unfold State.echoTx; split <;> rfl
@[simp] theorem State.echoTx_tick (bytes : List Byte) (s : State) : (s.echoTx bytes).tick = s.tick := by
  unfold State.echoTx; split <;> rfl
@[simp] theorem State.echoTx_draw (bytes : List Byte) (s : State) : (s.echoTx bytes).draw = s.draw := by
  unfold State.echoTx; split <;> rfl
@[simp] theorem State.echoTx_issuer (bytes : List Byte) (s : State) : (s.echoTx bytes).issuer = s.issuer := by
  unfold State.echoTx; split <;> rfl

/-! ### echoRx -/

@[simp] theorem State.echoRx_params (rx : List Byte) (s : State) : (s.echoRx rx).params = s.params := by
  unfold State.echoRx; split <;> rfl
@[simp] theorem State.echoRx_serialOpen (rx : List Byte) (s : State) :
    (s.echoRx rx).serialOpen = s.serialOpen := by
  unfold State.echoRx; split <;> rfl
@[simp] theorem State.echoRx_busOpen (rx : List Byte) (s : State) : (s.echoRx rx).busOpen = s.busOpen := by
  unfold State.echoRx; split <;> rfl
@[simp] theorem State.echoRx_diag (rx : List Byte) (s : State) : (s.echoRx rx).diag = s.diag := by
  unfold State.echoRx; split <;> rfl
@[simp] theorem State.echoRx_slots (rx : List Byte) (s : State) : (s.echoRx rx).slots = s.slots := by
  unfold State.echoRx; split <;> rfl
@[simp] theorem State.echoRx_fs (rx : List Byte) (s : State) : (s.echoRx rx).fs = s.fs := by
  unfold State.echoRx; split <;> rfl
@[simp] theorem State.echoRx_bs (rx : List Byte) (s : State) : (s.echoRx rx).bs = s.bs := by
  unfold State.echoRx; split <;> rfl
@[simp] theorem State.echoRx_callers (rx : List Byte) (s : State) : (s.echoRx rx).callers = s.callers := by
  unfold State.echoRx; split <;> rfl
@[simp] theorem State.echoRx_results (rx : List Byte) (s : State) : (s.echoRx rx).results = s.results := by
  unfold State.echoRx; split <;> rfl
@[simp] theorem State.echoRx_script (rx : List Byte) (s : State) : (s.echoRx rx).script = s.script := by
  unfold State.echoRx; split <;> rfl
@[simp] theorem State.echoRx_tick (rx : List Byte) (s : State) : (s.echoRx rx).tick = s.tick := by
  unfold State.echoRx; split <;> rfl
@[simp] theorem State.echoRx_draw (rx : List Byte) (s : State) : (s.echoRx rx).draw = s.draw := by
  unfold State.echoRx; split <;> rfl
@[simp] theorem State.echoRx_issuer (rx : List Byte) (s : State) : (s.echoRx rx).issuer = s.issuer := by
  unfold State.echoRx; split <;> rfl

/-! ### setSlot -/

@[simp] theorem State.setSlot_params (i : Nat) (sl : Slot) (s : State) :
    (s.setSlot i sl).params = s.params := rfl
@[simp] theorem State.setSlot_serialOpen (i : Nat) (sl : Slot) (s : State) :
    (s.setSlot i sl).serialOpen = s.serialOpen := rfl
@[simp] theorem State.setSlot_busOpen (i : Nat) (sl : Slot) (s : State) :
    (s.setSlot i sl).busOpen = s.busOpen := rfl
@[simp] theorem State.setSlot_diag (i : Nat) (sl : Slot) (s : State) : (s.setSlot i sl).diag = s.diag := rfl
@[simp] theorem State.setSlot_slots (i : Nat) (sl : Slot) (s : State) :
    (s.setSlot i sl).slots = s.slots.set i sl := rfl
@[simp] theorem State.setSlot_fs (i : Nat) (sl : Slot) (s : State) : (s.setSlot i sl).fs = s.fs := rfl
@[simp] theorem State.setSlot_bs (i : Nat) (sl : Slot) (s : State) : (s.setSlot i sl).bs = s.bs := rfl
@[simp] theorem State.setSlot_callers (i : Nat) (sl : Slot) (s : State) :
    (s.setSlot i sl).callers = s.callers := rfl
@[simp] theorem State.setSlot_history (i : Nat) (sl : Slot) (s : State) :
    (s.setSlot i sl).history = s.history := rfl
@[simp] theorem State.setSlot_results (i : Nat) (sl : Slot) (s : State) :
    (s.setSlot i sl).results = s.results := rfl
@[simp] theorem State.setSlot_script (i : Nat) (sl : Slot) (s : State) :
    (s.setSlot i sl).script = s.script := rfl
@[simp] theorem State.setSlot_tick (i : Nat) (sl : Slot) (s : State) : (s.setSlot i sl).tick = s.tick := rfl
@[simp] theorem State.setSlot_draw (i : Nat) (sl : Slot) (s : State) : (s.setSlot i sl).draw = s.draw := rfl
@[simp] theorem State.setSlot_issuer (i : Nat) (sl : Slot) (s : State) :
    (s.setSlot i sl).issuer = s.issuer := rfl

/-! ### setFs -/

@[simp] theorem State.setFs_params (f : Fs) (s : State) : (s.setFs f).params = s.params := rfl
@[simp] theorem State.setFs_serialOpen (f : Fs) (s : State) : (s.setFs f).serialOpen = s.serialOpen := rfl
@[simp] theorem State.setFs_busOpen (f : Fs) (s : State) : (s.setFs f).busOpen = s.busOpen := rfl
@[simp] theorem State.setFs_diag (f : Fs) (s : State) : (s.setFs f).diag = s.diag := rfl
@[simp] theorem State.setFs_slots (f : Fs) (s : State) : (s.setFs f).slots = s.slots := rfl
@[simp] theorem State.setFs_fs (f : Fs) (s : State) : (s.setFs f).fs = f := rfl
@[simp] theorem State.setFs_bs (f : Fs) (s : State) : (s.setFs f).bs = s.bs := rfl
@[simp] theorem State.setFs_callers (f : Fs) (s : State) : (s.setFs f).callers = s.callers := rfl
@[simp] theorem State.setFs_history (f : Fs) (s : State) : (s.setFs f).history = s.history := rfl
@[simp] theorem State.setFs_results (f : Fs) (s : State) : (s.setFs f).results = s.results := rfl
@[simp] theorem State.setFs_script (f : Fs) (s : State) : (s.setFs f).script = s.script := rfl
@[simp] theorem State.setFs_tick (f : Fs) (s : State) : (s.setFs f).tick = s.tick := rfl
@[simp] theorem State.setFs_draw (f : Fs) (s : State) : (s.setFs f).draw = s.draw := rfl
@[simp] theorem State.setFs_issuer (f : Fs) (s : State) : (s.setFs f).issuer = s.issuer := rfl

/-! ### setFsSt -/

@[simp] theorem State.setFsSt_params (v : FsSt) (s : State) : (s.setFsSt v).params = s.params := rfl
@[simp] theorem State.setFsSt_serialOpen (v : FsSt) (s : State) :
    (s.setFsSt v).serialOpen = s.serialOpen := rfl
@[simp] theorem State.setFsSt_busOpen (v : FsSt) (s : State) : (s.setFsSt v).busOpen = s.busOpen := rfl
@[simp] theorem State.setFsSt_diag (v : FsSt) (s : State) : (s.setFsSt v).diag = s.diag := rfl
@[simp] theorem State.setFsSt_slots (v : FsSt) (s : State) : (s.setFsSt v).slots = s.slots := rfl
@[simp] theorem State.setFsSt_fs (v : FsSt) (s : State) : (s.setFsSt v).fs = { s.fs with st := v } := rfl
@[simp] theorem State.setFsSt_bs (v : FsSt) (s : State) : (s.setFsSt v).bs = s.bs := rfl
@[simp] theorem State.setFsSt_callers (v : FsSt) (s : State) : (s.setFsSt v).callers = s.callers := rfl
@[simp] theorem State.setFsSt_history (v : FsSt) (s : State) : (s.setFsSt v).history = s.history := rfl
@[simp] theorem State.setFsSt_results (v : FsSt) (s : State) : (s.setFsSt v).results = s.results := rfl
@[simp] theorem State.setFsSt_script (v : FsSt) (s : State) : (s.setFsSt v).script = s.script := rfl
@[simp] theorem State.setFsSt_tick (v : FsSt) (s : State) : (s.setFsSt v).tick = s.tick := rfl
@[simp] theorem State.setFsSt_draw (v : FsSt) (s : State) : (s.setFsSt v).draw = s.draw := rfl
@[simp] theorem State.setFsSt_issuer (v : FsSt) (s : State) : (s.setFsSt v).issuer = s.issuer := rfl

/-! ### setSerialOpen -/

@[simp] theorem State.setSerialOpen_params (v : Bool) (s : State) :
    (s.setSerialOpen v).params = s.params := rfl
@[simp] theorem State.setSerialOpen_serialOpen (v : Bool) (s : State) :
    (s.setSerialOpen v).serialOpen = v := rfl
@[simp] theorem State.setSerialOpen_busOpen (v : Bool) (s : State) :
    (s.setSerialOpen v).busOpen = s.busOpen := rfl
@[simp] theorem State.setSerialOpen_diag (v : Bool) (s : State) : (s.setSerialOpen v).diag = s.diag := rfl
@[simp] theorem State.setSerialOpen_slots (v : Bool) (s : State) : (s.setSerialOpen v).slots = s.slots := rfl
@[simp] theorem State.setSerialOpen_fs (v : Bool) (s : State) : (s.setSerialOpen v).fs = s.fs := rfl
@[simp] theorem State.setSerialOpen_bs (v : Bool) (s : State) : (s.setSerialOpen v).bs = s.bs := rfl
@[simp] theorem State.setSerialOpen_callers (v : Bool) (s : State) :
    (s.setSerialOpen v).callers = s.callers := rfl
@[simp] theorem State.setSerialOpen_history (v : Bool) (s : State) :
    (s.setSerialOpen v).history = s.history := rfl
@[simp] theorem State.setSerialOpen_results (v : Bool) (s : State) :
    (s.setSerialOpen v).results = s.results := rfl
@[simp] theorem State.setSerialOpen_script (v : Bool) (s : State) :
    (s.setSerialOpen v).script = s.script := rfl
@[simp] theorem State.setSerialOpen_tick (v : Bool) (s : State) : (s.setSerialOpen v).tick = s.tick := rfl
@[simp] theorem State.setSerialOpen_draw (v : Bool) (s : State) : (s.setSerialOpen v).draw = s.draw := rfl
@[simp] theorem State.setSerialOpen_issuer (v : Bool) (s : State) :
    (s.setSerialOpen v).issuer = s.issuer := rfl

/-! ### setBusOpen -/

@[simp] theorem State.setBusOpen_params (v : Bool) (s : State) : (s.setBusOpen v).params = s.params := rfl
@[simp] theorem State.setBusOpen_serialOpen (v : Bool) (s : State) :
    (s.setBusOpen v).serialOpen = s.serialOpen := rfl
@[simp] theorem State.setBusOpen_busOpen (v : Bool) (s : State) : (s.setBusOpen v).busOpen = v := rfl
@[simp] theorem State.setBusOpen_diag (v : Bool) (s : State) : (s.setBusOpen v).diag = s.diag := rfl
@[simp] theorem State.setBusOpen_slots (v : Bool) (s : State) : (s.setBusOpen v).slots = s.slots := rfl
@[simp] theorem State.setBusOpen_fs (v : Bool) (s : State) : (s.setBusOpen v).fs = s.fs := rfl
@[simp] theorem State.setBusOpen_bs (v : Bool) (s : State) : (s.setBusOpen v).bs = s.bs := rfl
@[simp] theorem State.setBusOpen_callers (v : Bool) (s : State) : (s.setBusOpen v).callers = s.callers := rfl
@[simp] theorem State.setBusOpen_history (v : Bool) (s : State) : (s.setBusOpen v).history = s.history := rfl
@[simp] theorem State.setBusOpen_results (v : Bool) (s : State) : (s.setBusOpen v).results = s.results := rfl
@[simp] theorem State.setBusOpen_script (v : Bool) (s : State) : (s.setBusOpen v).script = s.script := rfl
@[simp] theorem State.setBusOpen_tick (v : Bool) (s : State) : (s.setBusOpen v).tick = s.tick := rfl
@[simp] theorem State.setBusOpen_draw (v : Bool) (s : State) : (s.setBusOpen v).draw = s.draw := rfl
@[simp] theorem State.setBusOpen_issuer (v : Bool) (s : State) : (s.setBusOpen v).issuer = s.issuer := rfl

/-! ### setDiag -/

@[simp] theorem State.setDiag_params (v : Bool) (s : State) : (s.setDiag v).params = s.params := rfl
@[simp] theorem State.setDiag_serialOpen (v : Bool) (s : State) :
    (s.setDiag v).serialOpen = s.serialOpen := rfl
@[simp] theorem State.setDiag_busOpen (v : Bool) (s : State) : (s.setDiag v).busOpen = s.busOpen := rfl
@[simp] theorem State.setDiag_diag (v : Bool) (s : State) : (s.setDiag v).diag = v := rfl
@[simp] theorem State.setDiag_slots (v : Bool) (s : State) : (s.setDiag v).slots = s.slots := rfl
@[simp] theorem State.setDiag_fs (v : Bool) (s : State) : (s.setDiag v).fs = s.fs := rfl
@[simp] theorem State.setDiag_bs (v : Bool) (s : State) : (s.setDiag v).bs = s.bs := rfl
@[simp] theorem State.setDiag_callers (v : Bool) (s : State) : (s.setDiag v).callers = s.callers := rfl
@[simp] theorem State.setDiag_history (v : Bool) (s : State) : (s.setDiag v).history = s.history := rfl
@[simp] theorem State.setDiag_results (v : Bool) (s : State) : (s.setDiag v).results = s.results := rfl
@[simp] theorem State.setDiag_script (v : Bool) (s : State) : (s.setDiag v).script = s.script := rfl
@[simp] theorem State.setDiag_tick (v : Bool) (s : State) : (s.setDiag v).tick = s.tick := rfl
@[simp] theorem State.setDiag_draw (v : Bool) (s : State) : (s.setDiag v).draw = s.draw := rfl
@[simp] theorem State.setDiag_issuer (v : Bool) (s : State) : (s.setDiag v).issuer = s.issuer := rfl

/-! ### modifyBs -/

@[simp] theorem State.modifyBs_params (j : Nat) (f : Bs → Bs) (s : State) :
    (s.modifyBs j f).params = s.params := rfl
@[simp] theorem State.modifyBs_serialOpen (j : Nat) (f : Bs → Bs) (s : State) :
    (s.modifyBs j f).serialOpen = s.serialOpen := rfl
@[simp] theorem State.modifyBs_busOpen (j : Nat) (f : Bs → Bs) (s : State) :
    (s.modifyBs j f).busOpen = s.busOpen := rfl
@[simp] theorem State.modifyBs_diag (j : Nat) (f : Bs → Bs) (s : State) :
    (s.modifyBs j f).diag = s.diag := rfl
@[simp] theorem State.modifyBs_slots (j : Nat) (f : Bs → Bs) (s : State) :
    (s.modifyBs j f).slots = s.slots := rfl
@[simp] theorem State.modifyBs_fs (j : Nat) (f : Bs → Bs) (s : State) : (s.modifyBs j f).fs = s.fs := rfl
@[simp] theorem State.modifyBs_bs (j : Nat) (f : Bs → Bs) (s : State) :
    (s.modifyBs j f).bs = s.bs.modify j f := rfl
@[simp] theorem State.modifyBs_callers (j : Nat) (f : Bs → Bs) (s : State) :
    (s.modifyBs j f).callers = s.callers := rfl
@[simp] theorem State.modifyBs_history (j : Nat) (f : Bs → Bs) (s : State) :
    (s.modifyBs j f).history = s.history := rfl
@[simp] theorem State.modifyBs_results (j : Nat) (f : Bs → Bs) (s : State) :
    (s.modifyBs j f).results = s.results := rfl
@[simp] theorem State.modifyBs_script (j : Nat) (f : Bs → Bs) (s : State) :
    (s.modifyBs j f).script = s.script := rfl
@[simp] theorem State.modifyBs_tick (j : Nat) (f : Bs → Bs) (s : State) :
    (s.modifyBs j f).tick = s.tick := rfl
@[simp] theorem State.modifyBs_draw (j : Nat) (f : Bs → Bs) (s : State) :
    (s.modifyBs j f).draw = s.draw := rfl
@[simp] theorem State.modifyBs_issuer (j : Nat) (f : Bs → Bs) (s : State) :
    (s.modifyBs j f).issuer = s.issuer := rfl

/-! ### setBsSt -/

@[simp] theorem State.setBsSt_params (j : Nat) (v : BsSt) (s : State) :
    (s.setBsSt j v).params = s.params := rfl
@[simp] theorem State.setBsSt_serialOpen (j : Nat) (v : BsSt) (s : State) :
    (s.setBsSt j v).serialOpen = s.serialOpen := rfl
@[simp] theorem State.setBsSt_busOpen (j : Nat) (v : BsSt) (s : State) :
    (s.setBsSt j v).busOpen = s.busOpen := rfl
@[simp] theorem State.setBsSt_diag (j : Nat) (v : BsSt) (s : State) : (s.setBsSt j v).diag = s.diag := rfl
@[simp] theorem State.setBsSt_slots (j : Nat) (v : BsSt) (s : State) : (s.setBsSt j v).slots = s.slots := rfl
@[simp] theorem State.setBsSt_fs (j : Nat) (v : BsSt) (s : State) : (s.setBsSt j v).fs = s.fs := rfl
@[simp] theorem State.setBsSt_bs (j : Nat) (v : BsSt) (s : State) :
    (s.setBsSt j v).bs = s.bs.modify j fun b => { b with st := v } := rfl
@[simp] theorem State.setBsSt_callers (j : Nat) (v : BsSt) (s : State) :
    (s.setBsSt j v).callers = s.callers := rfl
@[simp] theorem State.setBsSt_history (j : Nat) (v : BsSt) (s : State) :
    (s.setBsSt j v).history = s.history := rfl
@[simp] theorem State.setBsSt_results (j : Nat) (v : BsSt) (s : State) :
    (s.setBsSt j v).results = s.results := rfl
@[simp] theorem State.setBsSt_script (j : Nat) (v : BsSt) (s : State) :
    (s.setBsSt j v).script = s.script := rfl
@[simp] theorem State.setBsSt_tick (j : Nat) (v : BsSt) (s : State) : (s.setBsSt j v).tick = s.tick := rfl
@[simp] theorem State.setBsSt_draw (j : Nat) (v : BsSt) (s : State) : (s.setBsSt j v).draw = s.draw := rfl
@[simp] theorem State.setBsSt_issuer (j : Nat) (v : BsSt) (s : State) :
    (s.setBsSt j v).issuer = s.issuer := rfl

/-! ### setBsTmp -/

@[simp] theorem State.setBsTmp_params (j : Nat) (v : Byte) (s : State) :
    (s.setBsTmp j v).params = s.params := rfl
@[simp] theorem State.setBsTmp_serialOpen (j : Nat) (v : Byte) (s : State) :
    (s.setBsTmp j v).serialOpen = s.serialOpen := rfl
@[simp] theorem State.setBsTmp_busOpen (j : Nat) (v : Byte) (s : State) :
    (s.setBsTmp j v).busOpen = s.busOpen := rfl
@[simp] theorem State.setBsTmp_diag (j : Nat) (v : Byte) (s : State) : (s.setBsTmp j v).diag = s.diag := rfl
@[simp] theorem State.setBsTmp_slots (j : Nat) (v : Byte) (s : State) :
    (s.setBsTmp j v).slots = s.slots := rfl
@[simp] theorem State.setBsTmp_fs (j : Nat) (v : Byte) (s : State) : (s.setBsTmp j v).fs = s.fs := rfl
@[simp] theorem State.setBsTmp_bs (j : Nat) (v : Byte) (s : State) :
    (s.setBsTmp j v).bs = s.bs.modify j fun b => { b with tmp := v } := rfl
@[simp] theorem State.setBsTmp_callers (j : Nat) (v : Byte) (s : State) :
    (s.setBsTmp j v).callers = s.callers := rfl
@[simp] theorem State.setBsTmp_history (j : Nat) (v : Byte) (s : State) :
    (s.setBsTmp j v).history = s.history := rfl
@[simp] theorem State.setBsTmp_results (j : Nat) (v : Byte) (s : State) :
    (s.setBsTmp j v).results = s.results := rfl
@[simp] theorem State.setBsTmp_script (j : Nat) (v : Byte) (s : State) :
    (s.setBsTmp j v).script = s.script := rfl
@[simp] theorem State.setBsTmp_tick (j : Nat) (v : Byte) (s : State) : (s.setBsTmp j v).tick = s.tick := rfl
@[simp] theorem State.setBsTmp_draw (j : Nat) (v : Byte) (s : State) : (s.setBsTmp j v).draw = s.draw := rfl
@[simp] theorem State.setBsTmp_issuer (j : Nat) (v : Byte) (s : State) :
    (s.setBsTmp j v).issuer = s.issuer := rfl

/-! ### setIssuer -/

@[simp] theorem State.setIssuer_params (c : CallerId) (s : State) : (s.setIssuer c).params = s.params := rfl
@[simp] theorem State.setIssuer_serialOpen (c : CallerId) (s : State) :
    (s.setIssuer c).serialOpen = s.serialOpen := rfl
@[simp] theorem State.setIssuer_busOpen (c : CallerId) (s : State) :
    (s.setIssuer c).busOpen = s.busOpen := rfl
@[simp] theorem State.setIssuer_diag (c : CallerId) (s : State) : (s.setIssuer c).diag = s.diag := rfl
@[simp] theorem State.setIssuer_slots (c : CallerId) (s : State) : (s.setIssuer c).slots = s.slots := rfl
@[simp] theorem State.setIssuer_fs (c : CallerId) (s : State) : (s.setIssuer c).fs = s.fs := rfl
@[simp] theorem State.setIssuer_bs (c : CallerId) (s : State) : (s.setIssuer c).bs = s.bs := rfl
@[simp] theorem State.setIssuer_callers (c : CallerId) (s : State) :
    (s.setIssuer c).callers = s.callers := rfl
@[simp] theorem State.setIssuer_history (c : CallerId) (s : State) :
    (s.setIssuer c).history = s.history := rfl
@[simp] theorem State.setIssuer_results (c : CallerId) (s : State) :
    (s.setIssuer c).results = s.results := rfl
@[simp] theorem State.setIssuer_script (c : CallerId) (s : State) : (s.setIssuer c).script = s.script := rfl
@[simp] theorem State.setIssuer_tick (c : CallerId) (s : State) : (s.setIssuer c).tick = s.tick := rfl
@[simp] theorem State.setIssuer_draw (c : CallerId) (s : State) : (s.setIssuer c).draw = s.draw := rfl
@[simp] theorem State.setIssuer_issuer (c : CallerId) (s : State) : (s.setIssuer c).issuer = c := rfl

/-! ### deliver -/

@[simp] theorem State.deliver_params (c : CallerId) (k : ResultCode) (d : Byte) (s : State) :
    (s.deliver c k d).params = s.params := rfl
@[simp] theorem State.deliver_serialOpen (c : CallerId) (k : ResultCode) (d : Byte) (s : State) :
    (s.deliver c k d).serialOpen = s.serialOpen := rfl
@[simp] theorem State.deliver_busOpen (c : CallerId) (k : ResultCode) (d : Byte) (s : State) :
    (s.deliver c k d).busOpen = s.busOpen := rfl
@[simp] theorem State.deliver_diag (c : CallerId) (k : ResultCode) (d : Byte) (s : State) :
    (s.deliver c k d).diag = s.diag := rfl
@[simp] theorem State.deliver_slots (c : CallerId) (k : ResultCode) (d : Byte) (s : State) :
    (s.deliver c k d).slots = s.slots := rfl
@[simp] theorem State.deliver_fs (c : CallerId) (k : ResultCode) (d : Byte) (s : State) :
    (s.deliver c k d).fs = s.fs := rfl
@[simp] theorem State.deliver_bs (c : CallerId) (k : ResultCode) (d : Byte) (s : State) :
    (s.deliver c k d).bs = s.bs := rfl
@[simp] theorem State.deliver_callers (c : CallerId) (k : ResultCode) (d : Byte) (s : State) :
    (s.deliver c k d).callers = Callers.put c (.done (hrw k d)) s.callers := rfl
@[simp] theorem State.deliver_history (c : CallerId) (k : ResultCode) (d : Byte) (s : State) :
    (s.deliver c k d).history = s.history := rfl
@[simp] theorem State.deliver_results (c : CallerId) (k : ResultCode) (d : Byte) (s : State) :
    (s.deliver c k d).results = s.results := rfl
@[simp] theorem State.deliver_script (c : CallerId) (k : ResultCode) (d : Byte) (s : State) :
    (s.deliver c k d).script = s.script := rfl
@[simp] theorem State.deliver_tick (c : CallerId) (k : ResultCode) (d : Byte) (s : State) :
    (s.deliver c k d).tick = s.tick := rfl
@[simp] theorem State.deliver_draw (c : CallerId) (k : ResultCode) (d : Byte) (s : State) :
    (s.deliver c k d).draw = s.draw := rfl
@[simp] theorem State.deliver_issuer (c : CallerId) (k : ResultCode) (d : Byte) (s : State) :
    (s.deliver c k d).issuer = s.issuer := rfl

/-! ### complete -/

@[simp] theorem State.complete_params (k : ResultCode) (d : Byte) (s : State) :
    (s.complete k d).params = s.params := rfl
@[simp] theorem State.complete_serialOpen (k : ResultCode) (d : Byte) (s : State) :
    (s.complete k d).serialOpen = s.serialOpen := rfl
@[simp] theorem State.complete_busOpen (k : ResultCode) (d : Byte) (s : State) :
    (s.complete k d).busOpen = s.busOpen := rfl
@[simp] theorem State.complete_diag (k : ResultCode) (d : Byte) (s : State) :
    (s.complete k d).diag = s.diag := rfl
@[simp] theorem State.complete_slots (k : ResultCode) (d : Byte) (s : State) :
    (s.complete k d).slots = s.slots := rfl
@[simp] theorem State.complete_fs (k : ResultCode) (d : Byte) (s : State) : (s.complete k d).fs = s.fs := rfl
@[simp] theorem State.complete_bs (k : ResultCode) (d : Byte) (s : State) : (s.complete k d).bs = s.bs := rfl
@[simp] theorem State.complete_callers (k : ResultCode) (d : Byte) (s : State) :
    (s.complete k d).callers = Callers.put s.issuer (.done (hrw k d)) s.callers := rfl
@[simp] theorem State.complete_history (k : ResultCode) (d : Byte) (s : State) :
    (s.complete k d).history = s.history := rfl
@[simp] theorem State.complete_results (k : ResultCode) (d : Byte) (s : State) :
    (s.complete k d).results = s.results := rfl
@[simp] theorem State.complete_script (k : ResultCode) (d : Byte) (s : State) :
    (s.complete k d).script = s.script := rfl
@[simp] theorem State.complete_tick (k : ResultCode) (d : Byte) (s : State) :
    (s.complete k d).tick = s.tick := rfl
@[simp] theorem State.complete_draw (k : ResultCode) (d : Byte) (s : State) :
    (s.complete k d).draw = s.draw := rfl
@[simp] theorem State.complete_issuer (k : ResultCode) (d : Byte) (s : State) :
    (s.complete k d).issuer = s.issuer := rfl

/-! ### raise -/

@[simp] theorem State.raise_params (k : ResultCode) (s : State) : (s.raise k).params = s.params := rfl
@[simp] theorem State.raise_serialOpen (k : ResultCode) (s : State) :
    (s.raise k).serialOpen = s.serialOpen := rfl
@[simp] theorem State.raise_busOpen (k : ResultCode) (s : State) : (s.raise k).busOpen = s.busOpen := rfl
@[simp] theorem State.raise_diag (k : ResultCode) (s : State) : (s.raise k).diag = s.diag := rfl
@[simp] theorem State.raise_slots (k : ResultCode) (s : State) : (s.raise k).slots = s.slots := rfl
@[simp] theorem State.raise_fs (k : ResultCode) (s : State) : (s.raise k).fs = s.fs := rfl
@[simp] theorem State.raise_bs (k : ResultCode) (s : State) : (s.raise k).bs = s.bs := rfl
@[simp] theorem State.raise_callers (k : ResultCode) (s : State) :
    (s.raise k).callers = Callers.put s.issuer (.done (hrw k 0#8)) s.callers := rfl
@[simp] theorem State.raise_history (k : ResultCode) (s : State) : (s.raise k).history = s.history := rfl
@[simp] theorem State.raise_results (k : ResultCode) (s : State) : (s.raise k).results = s.results := rfl
@[simp] theorem State.raise_script (k : ResultCode) (s : State) : (s.raise k).script = s.script := rfl
@[simp] theorem State.raise_tick (k : ResultCode) (s : State) : (s.raise k).tick = s.tick := rfl
@[simp] theorem State.raise_draw (k : ResultCode) (s : State) : (s.raise k).draw = s.draw := rfl
@[simp] theorem State.raise_issuer (k : ResultCode) (s : State) : (s.raise k).issuer = s.issuer := rfl

/-! ### start -/

@[simp] theorem State.start_params (s : State) : (s.start).params = s.params := rfl
@[simp] theorem State.start_serialOpen (s : State) : (s.start).serialOpen = s.serialOpen := rfl
@[simp] theorem State.start_busOpen (s : State) : (s.start).busOpen = s.busOpen := rfl
@[simp] theorem State.start_diag (s : State) : (s.start).diag = s.diag := rfl
@[simp] theorem State.start_slots (s : State) : (s.start).slots = s.slots := rfl
@[simp] theorem State.start_fs (s : State) : (s.start).fs = s.fs := rfl
@[simp] theorem State.start_bs (s : State) : (s.start).bs = s.bs := rfl
@[simp] theorem State.start_callers (s : State) :
    (s.start).callers = Callers.put s.issuer .running s.callers := rfl
@[simp] theorem State.start_history (s : State) : (s.start).history = s.history := rfl
@[simp] theorem State.start_results (s : State) : (s.start).results = s.results := rfl
@[simp] theorem State.start_script (s : State) : (s.start).script = s.script := rfl
@[simp] theorem State.start_tick (s : State) : (s.start).tick = s.tick := rfl
@[simp] theorem State.start_draw (s : State) : (s.start).draw = s.draw := rfl
@[simp] theorem State.start_issuer (s : State) : (s.start).issuer = s.issuer := rfl

/-! ### finishFs -/

@[simp] theorem State.finishFs_params (c : CallerId) (k : ResultCode) (s : State) :
    (s.finishFs c k).params = s.params := rfl
@[simp] theorem State.finishFs_serialOpen (c : CallerId) (k : ResultCode) (s : State) :
    (s.finishFs c k).serialOpen = s.serialOpen := rfl
@[simp] theorem State.finishFs_busOpen (c : CallerId) (k : ResultCode) (s : State) :
    (s.finishFs c k).busOpen = s.busOpen := rfl
@[simp] theorem State.finishFs_diag (c : CallerId) (k : ResultCode) (s : State) :
    (s.finishFs c k).diag = s.diag := rfl
@[simp] theorem State.finishFs_slots (c : CallerId) (k : ResultCode) (s : State) :
    (s.finishFs c k).slots = s.slots := rfl
@[simp] theorem State.finishFs_fs (c : CallerId) (k : ResultCode) (s : State) :
    (s.finishFs c k).fs = { s.fs with st := .idle } := rfl
@[simp] theorem State.finishFs_bs (c : CallerId) (k : ResultCode) (s : State) :
    (s.finishFs c k).bs = s.bs := rfl
@[simp] theorem State.finishFs_callers (c : CallerId) (k : ResultCode) (s : State) :
    (s.finishFs c k).callers = Callers.put c (.done (hrw k 0#8)) s.callers := rfl
@[simp] theorem State.finishFs_history (c : CallerId) (k : ResultCode) (s : State) :
    (s.finishFs c k).history = s.history := rfl
@[simp] theorem State.finishFs_results (c : CallerId) (k : ResultCode) (s : State) :
    (s.finishFs c k).results = s.results := rfl
@[simp] theorem State.finishFs_script (c : CallerId) (k : ResultCode) (s : State) :
    (s.finishFs c k).script = s.script := rfl
@[simp] theorem State.finishFs_tick (c : CallerId) (k : ResultCode) (s : State) :
    (s.finishFs c k).tick = s.tick := rfl
@[simp] theorem State.finishFs_draw (c : CallerId) (k : ResultCode) (s : State) :
    (s.finishFs c k).draw = s.draw := rfl
@[simp] theorem State.finishFs_issuer (c : CallerId) (k : ResultCode) (s : State) :
    (s.finishFs c k).issuer = s.issuer := rfl

/-! ### finishBs -/

@[simp] theorem State.finishBs_params (j : Nat) (c : CallerId) (k : ResultCode) (s : State) :
    (s.finishBs j c k).params = s.params := rfl
@[simp] theorem State.finishBs_serialOpen (j : Nat) (c : CallerId) (k : ResultCode) (s : State) :
    (s.finishBs j c k).serialOpen = s.serialOpen := rfl
@[simp] theorem State.finishBs_busOpen (j : Nat) (c : CallerId) (k : ResultCode) (s : State) :
    (s.finishBs j c k).busOpen = s.busOpen := rfl
@[simp] theorem State.finishBs_diag (j : Nat) (c : CallerId) (k : ResultCode) (s : State) :
    (s.finishBs j c k).diag = s.diag := rfl
@[simp] theorem State.finishBs_slots (j : Nat) (c : CallerId) (k : ResultCode) (s : State) :
    (s.finishBs j c k).slots = s.slots := rfl
@[simp] theorem State.finishBs_fs (j : Nat) (c : CallerId) (k : ResultCode) (s : State) :
    (s.finishBs j c k).fs = s.fs := rfl
@[simp] theorem State.finishBs_bs (j : Nat) (c : CallerId) (k : ResultCode) (s : State) :
    (s.finishBs j c k).bs = s.bs.modify j fun b => { b with st := .idle } := rfl
@[simp] theorem State.finishBs_callers (j : Nat) (c : CallerId) (k : ResultCode) (s : State) :
    (s.finishBs j c k).callers = Callers.put c (.done (hrw k 0#8)) s.callers := rfl
@[simp] theorem State.finishBs_history (j : Nat) (c : CallerId) (k : ResultCode) (s : State) :
    (s.finishBs j c k).history = s.history := rfl
@[simp] theorem State.finishBs_results (j : Nat) (c : CallerId) (k : ResultCode) (s : State) :
    (s.finishBs j c k).results = s.results := rfl
@[simp] theorem State.finishBs_script (j : Nat) (c : CallerId) (k : ResultCode) (s : State) :
    (s.finishBs j c k).script = s.script := rfl
@[simp] theorem State.finishBs_tick (j : Nat) (c : CallerId) (k : ResultCode) (s : State) :
    (s.finishBs j c k).tick = s.tick := rfl
@[simp] theorem State.finishBs_draw (j : Nat) (c : CallerId) (k : ResultCode) (s : State) :
    (s.finishBs j c k).draw = s.draw := rfl
@[simp] theorem State.finishBs_issuer (j : Nat) (c : CallerId) (k : ResultCode) (s : State) :
    (s.finishBs j c k).issuer = s.issuer := rfl

/-! ### startTx -/

@[simp] theorem startTx_params (body : List Byte) (s : State) :
    (startTx body s).params = s.params := rfl
@[simp] theorem startTx_serialOpen (body : List Byte) (s : State) :
    (startTx body s).serialOpen = s.serialOpen := rfl
@[simp] theorem startTx_busOpen (body : List Byte) (s : State) :
    (startTx body s).busOpen = s.busOpen := rfl
@[simp] theorem startTx_diag (body : List Byte) (s : State) :
    (startTx body s).diag = s.diag := rfl
@[simp] theorem startTx_slots (body : List Byte) (s : State) :
    (startTx body s).slots = s.slots := rfl
@[simp] theorem startTx_fs (body : List Byte) (s : State) :
    (startTx body s).fs = { st := .write, buf := frameOf body, attempt := 0, owner := s.issuer } := rfl
@[simp] theorem startTx_bs (body : List Byte) (s : State) :
    (startTx body s).bs = s.bs := rfl
@[simp] theorem startTx_callers (body : List Byte) (s : State) :
    (startTx body s).callers = Callers.put s.issuer .running s.callers := rfl
@[simp] theorem startTx_history (body : List Byte) (s : State) :
    (startTx body s).history = s.history := rfl
@[simp] theorem startTx_results (body : List Byte) (s : State) :
    (startTx body s).results = s.results := rfl
@[simp] theorem startTx_script (body : List Byte) (s : State) :
    (startTx body s).script = s.script := rfl
@[simp] theorem startTx_tick (body : List Byte) (s : State) :
    (startTx body s).tick = s.tick := rfl
@[simp] theorem startTx_draw (body : List Byte) (s : State) :
    (startTx body s).draw = s.draw := rfl
@[simp] theorem startTx_issuer (body : List Byte) (s : State) :
    (startTx body s).issuer = s.issuer := rfl

/-! ### The history after an echo -/

theorem State.echoTx_history (bytes : List Byte) (s : State) :
    (s.echoTx bytes).history = s.history ++ (if s.diag then [⟨.fs, .diagTx bytes⟩] else []) := by
  unfold State.echoTx; split <;> simp

theorem State.echoRx_history (rx : List Byte) (s : State) :
    (s.echoRx rx).history =
      s.history ++ (if s.diag then rx.map fun b => ⟨.fs, .diagRx b⟩ else []) := by
  unfold State.echoRx; split <;> simp

/-! ### Taking a turn -/

theorem State.takeTurn_cons {s : State} {t : Turn} {ts : List Turn} (h : s.script = t :: ts) :
    s.takeTurn = { s with script := ts, draw := t.draw } := by
  simp [State.takeTurn, h]

theorem State.nextTurn_cons {s : State} {t : Turn} {ts : List Turn} (h : s.script = t :: ts) :
    s.nextTurn = t := by
  simp [State.nextTurn, h]

/-- The step's draw is the turn's, whether scripted or free. -/
@[simp] theorem State.takeTurn_draw (s : State) : s.takeTurn.draw = s.nextTurn.draw := by
  unfold State.takeTurn State.nextTurn; split <;> rfl

@[simp] theorem State.takeTurn_params (s : State) : s.takeTurn.params = s.params := by
  unfold State.takeTurn; split <;> rfl
@[simp] theorem State.takeTurn_serialOpen (s : State) : s.takeTurn.serialOpen = s.serialOpen := by
  unfold State.takeTurn; split <;> rfl
@[simp] theorem State.takeTurn_busOpen (s : State) : s.takeTurn.busOpen = s.busOpen := by
  unfold State.takeTurn; split <;> rfl
@[simp] theorem State.takeTurn_diag (s : State) : s.takeTurn.diag = s.diag := by
  unfold State.takeTurn; split <;> rfl
@[simp] theorem State.takeTurn_slots (s : State) : s.takeTurn.slots = s.slots := by
  unfold State.takeTurn; split <;> rfl
@[simp] theorem State.takeTurn_fs (s : State) : s.takeTurn.fs = s.fs := by
  unfold State.takeTurn; split <;> rfl
@[simp] theorem State.takeTurn_bs (s : State) : s.takeTurn.bs = s.bs := by
  unfold State.takeTurn; split <;> rfl
@[simp] theorem State.takeTurn_callers (s : State) : s.takeTurn.callers = s.callers := by
  unfold State.takeTurn; split <;> rfl
@[simp] theorem State.takeTurn_history (s : State) : s.takeTurn.history = s.history := by
  unfold State.takeTurn; split <;> rfl
@[simp] theorem State.takeTurn_results (s : State) : s.takeTurn.results = s.results := by
  unfold State.takeTurn; split <;> rfl
@[simp] theorem State.takeTurn_issuer (s : State) : s.takeTurn.issuer = s.issuer := by
  unfold State.takeTurn; split <;> rfl

@[simp] theorem State.takeTurn_caller (s : State) (c : CallerId) : s.takeTurn.caller c = s.caller c := by
  simp only [State.caller, State.takeTurn_callers]

@[simp] theorem State.setIssuer_caller (s : State) (c d : CallerId) :
    (s.setIssuer c).caller d = s.caller d := rfl

end Sys2Proof.Machine
end

