-- ==== Sys2Proof/Laws/Ops.lean ====
section
/-! SUPPORT. What each shared operation can do: the caller table and its canonical form, the readers of registers
that may have no value, the holds, the checks, BUS_STEP, the frame's checksum, reset. -/

namespace Sys2Proof.Machine

/-! ### The caller table -/

@[simp] theorem Callers.get_nil (c : CallerId) : Callers.get c [] = none := rfl

@[simp] theorem Callers.get_put_self (c : CallerId) (v : CallerSt) (t : List (CallerId × CallerSt)) :
    Callers.get c (Callers.put c v t) = some v := by
  induction t with
  | nil => simp [Callers.put, Callers.get]
  | cons e rest ih =>
    obtain ⟨d, u⟩ := e
    unfold Callers.put
    split
    · simp [Callers.get]
    · split
      · simp [Callers.get]
      · simp_all [Callers.get]

theorem Callers.get_put_ne {c d : CallerId} (h : c ≠ d) (v : CallerSt) (t : List (CallerId × CallerSt)) :
    Callers.get c (Callers.put d v t) = Callers.get c t := by
  induction t with
  | nil => simp [Callers.put, Callers.get, h]
  | cons e rest ih =>
    obtain ⟨b, u⟩ := e
    unfold Callers.put
    split
    · simp [Callers.get, h]
    · split
      · simp_all [Callers.get]
      · simp [Callers.get, ih]

/-- A put answers one lookup: the caller's own entry is new, every other is as before. -/
theorem Callers.get_put (c d : CallerId) (v : CallerSt) (t : List (CallerId × CallerSt)) :
    Callers.get c (Callers.put d v t) = if c = d then some v else Callers.get c t := by
  split
  · subst c; simp
  · rename_i h; exact Callers.get_put_ne h v t

theorem Callers.get_erase_ne {c d : CallerId} (h : c ≠ d) (t : List (CallerId × CallerSt)) :
    Callers.get c (Callers.erase d t) = Callers.get c t := by
  induction t with
  | nil => rfl
  | cons e rest ih =>
    obtain ⟨b, u⟩ := e
    unfold Callers.erase
    split
    · simp_all [Callers.get]
    · simp [Callers.get, ih]

theorem Callers.wf_iff (t : List (CallerId × CallerSt)) :
    Callers.wf t = true ↔ (t.map Prod.fst).Pairwise (· < ·) := by
  simp [Callers.wf]

theorem Callers.mem_of_get {c : CallerId} {v : CallerSt} {t : List (CallerId × CallerSt)}
    (h : Callers.get c t = some v) : (c, v) ∈ t := by
  induction t with
  | nil => simp [Callers.get] at h
  | cons e rest ih =>
    obtain ⟨b, u⟩ := e
    unfold Callers.get at h
    split at h
    · simp_all
    · exact List.mem_cons_of_mem _ (ih h)

theorem Callers.mem_put {c : CallerId} {v : CallerSt} {t : List (CallerId × CallerSt)}
    {e : CallerId × CallerSt} (h : e ∈ Callers.put c v t) : e = (c, v) ∨ e ∈ t := by
  induction t with
  | nil => simpa [Callers.put] using h
  | cons f rest ih =>
    obtain ⟨d, u⟩ := f
    unfold Callers.put at h
    split at h
    · simpa using h
    · split at h
      · rcases List.mem_cons.1 h with h | h
        · exact .inl h
        · exact .inr (List.mem_cons_of_mem _ h)
      · rcases List.mem_cons.1 h with h | h
        · exact .inr (by simp [h])
        · rcases ih h with h | h
          · exact .inl h
          · exact .inr (List.mem_cons_of_mem _ h)

theorem Callers.mem_erase {c : CallerId} {t : List (CallerId × CallerSt)} {e : CallerId × CallerSt}
    (h : e ∈ Callers.erase c t) : e ∈ t := by
  induction t with
  | nil => simp [Callers.erase] at h
  | cons f rest ih =>
    obtain ⟨d, u⟩ := f
    unfold Callers.erase at h
    split at h
    · exact List.mem_cons_of_mem _ h
    · rcases List.mem_cons.1 h with h | h
      · simp [h]
      · exact List.mem_cons_of_mem _ (ih h)

theorem Callers.get_of_mem {c : CallerId} {v : CallerSt} {t : List (CallerId × CallerSt)}
    (hw : Callers.wf t = true) (h : (c, v) ∈ t) : Callers.get c t = some v := by
  rw [Callers.wf_iff] at hw
  induction t with
  | nil => simp at h
  | cons f rest ih =>
    obtain ⟨d, u⟩ := f
    simp only [List.map_cons, List.pairwise_cons] at hw
    rcases List.mem_cons.1 h with h | h
    · obtain ⟨rfl, rfl⟩ := Prod.mk.inj h
      simp [Callers.get]
    · have := hw.1 c (List.mem_map_of_mem (f := Prod.fst) h)
      rw [Callers.get, if_neg (Nat.ne_of_gt this)]
      exact ih hw.2 h

/-- A put keeps the canonical form. -/
theorem Callers.wf_put {t : List (CallerId × CallerSt)} (hw : Callers.wf t = true)
    (c : CallerId) (v : CallerSt) : Callers.wf (Callers.put c v t) = true := by
  rw [Callers.wf_iff] at *
  induction t with
  | nil => simp [Callers.put]
  | cons f rest ih =>
    obtain ⟨d, u⟩ := f
    simp only [List.map_cons, List.pairwise_cons] at hw
    unfold Callers.put
    split
    · rename_i hlt
      simp only [List.map_cons, List.pairwise_cons]
      refine ⟨?_, hw⟩
      intro a ha
      rcases List.mem_cons.1 ha with rfl | ha
      · exact hlt
      · exact Nat.lt_trans hlt (hw.1 a ha)
    · rename_i hge
      split
      · rename_i heq
        simpa [List.map_cons, List.pairwise_cons, heq] using hw
      · rename_i hne
        simp only [List.map_cons, List.pairwise_cons]
        refine ⟨?_, ih hw.2⟩
        intro a ha
        obtain ⟨e, he, rfl⟩ := List.mem_map.1 ha
        rcases Callers.mem_put he with rfl | he
        · exact Nat.lt_of_le_of_ne (Nat.le_of_not_lt hge) (Ne.symm hne)
        · exact hw.1 _ (List.mem_map_of_mem (f := Prod.fst) he)

/-- An erase keeps the canonical form. -/
theorem Callers.wf_erase {t : List (CallerId × CallerSt)} (hw : Callers.wf t = true) (c : CallerId) :
    Callers.wf (Callers.erase c t) = true := by
  rw [Callers.wf_iff] at *
  induction t with
  | nil => simp [Callers.erase]
  | cons f rest ih =>
    obtain ⟨d, u⟩ := f
    simp only [List.map_cons, List.pairwise_cons] at hw
    unfold Callers.erase
    split
    · exact hw.2
    · simp only [List.map_cons, List.pairwise_cons]
      refine ⟨?_, ih hw.2⟩
      intro a ha
      obtain ⟨e, he, rfl⟩ := List.mem_map.1 ha
      exact hw.1 _ (List.mem_map_of_mem (f := Prod.fst) (Callers.mem_erase he))

/-- In the canonical form an erased caller has nothing outstanding. -/
theorem Callers.get_erase_self {t : List (CallerId × CallerSt)} (hw : Callers.wf t = true)
    (c : CallerId) : Callers.get c (Callers.erase c t) = none := by
  rw [Callers.wf_iff] at hw
  induction t with
  | nil => rfl
  | cons f rest ih =>
    obtain ⟨d, u⟩ := f
    simp only [List.map_cons, List.pairwise_cons] at hw
    unfold Callers.erase
    split
    · rename_i heq
      subst heq
      cases hg : Callers.get c rest with
      | none => rfl
      | some v =>
        have hm := hw.1 c (List.mem_map_of_mem (f := Prod.fst) (Callers.mem_of_get hg))
        exact absurd hm (Nat.lt_irrefl _)
    · rename_i hne
      rw [Callers.get, if_neg hne]
      exact ih hw.2

theorem State.reset_callers_wf (p : Params) : Callers.wf (State.resetWith p).callers = true := rfl

@[simp] theorem State.caller_setCaller (c d : CallerId) (v : CallerSt) (s : State) :
    (s.setCaller d v).caller c = if c = d then some v else s.caller c := by
  simp [State.caller, Callers.get_put]

theorem State.caller_clearCaller_self {s : State} (hw : Callers.wf s.callers = true) (c : CallerId) :
    (s.clearCaller c).caller c = none := Callers.get_erase_self hw c

theorem State.caller_clearCaller_ne {c d : CallerId} (h : c ≠ d) (s : State) :
    (s.clearCaller d).caller c = s.caller c := Callers.get_erase_ne h s.callers

/-! ### Reading registers that may have no value -/

@[simp] theorem readIf_true {α : Type} (r : NoValueReg) (v : α) : readIf true r v = .ok v := rfl

@[simp] theorem readIf_false {α : Type} (r : NoValueReg) (v : α) :
    readIf false r v = .error (.noValue r) := rfl

@[simp] theorem reading_ok {α : Type} (a : α) (k : α → Result) : reading (.ok a) k = k a := rfl

@[simp] theorem reading_error {α : Type} (f : Fault) (k : α → Result) :
    reading (.error f) k = .fault f := rfl

/-- Reading goes on exactly when the register has its value. -/
theorem reading_readIf_next {α : Type} {has : Bool} {r : NoValueReg} {v : α} {k : α → Result} {t : State}
    (h : reading (readIf has r v) k = .next t) : has = true ∧ k v = .next t := by
  cases has <;> simp_all

@[simp] theorem reading_slotAddr {sl : Slot} (h : sl.bound = true) (k : DccAddr → Result) :
    reading sl.readAddr k = k sl.addr := by simp [Slot.readAddr, h]

@[simp] theorem reading_slotGrp {sl : Slot} (h : sl.bound = true) (g : Fin 3) (k : Byte → Result) :
    reading (sl.readGrp g) k = k (sl.grp.get g) := by simp [Slot.readGrp, h]

theorem Fs.busy_iff (f : Fs) : f.busy = true ↔ f.st ≠ .idle := by simp [Fs.busy]

theorem Bs.busy_iff (b : Bs) : b.busy = true ↔ b.st ≠ .idle := by simp [Bs.busy]

@[simp] theorem reading_fsOwner {f : Fs} (h : f.busy = true) (k : CallerId → Result) :
    reading f.readOwner k = k f.owner := by simp [Fs.readOwner, h]

@[simp] theorem reading_fsBuf {f : Fs} (h : f.busy = true) (k : List Byte → Result) :
    reading f.readBuf k = k f.buf := by simp [Fs.readBuf, h]

@[simp] theorem reading_fsAttempt {f : Fs} (h : f.busy = true) (k : Nat → Result) :
    reading f.readAttempt k = k f.attempt := by simp [Fs.readAttempt, h]

@[simp] theorem withDev_busy {b : Bs} (h : b.busy = true) (k : CallerId → Byte → Result) :
    withDev b k = k b.owner b.dev := by simp [withDev, Bs.readOwner, Bs.readDev, h]

/-! ### Holds and checks -/

/-- A held command changes nothing; an accepted one goes on (R73). -/
theorem acceptWhen_eq (free : Bool) (s : State) (k : Result) :
    acceptWhen free s k = if free = true then k else .next s := rfl

@[simp] theorem acceptWhen_true (s : State) (k : Result) : acceptWhen true s k = k := rfl

@[simp] theorem acceptWhen_false (s : State) (k : Result) : acceptWhen false s k = .next s := rfl

@[simp] theorem whenSerialOpen_open {s : State} (h : s.serialOpen = true) (k : Result) :
    whenSerialOpen s k = k := by simp [whenSerialOpen, h]

@[simp] theorem whenSerialOpen_closed {s : State} (h : s.serialOpen = false) (k : Result) :
    whenSerialOpen s k = .next (s.raise .transportError) := by simp [whenSerialOpen, h]

@[simp] theorem whenBusOpen_open {s : State} (h : s.busOpen = true) (k : Result) :
    whenBusOpen s k = k := by simp [whenBusOpen, h]

@[simp] theorem whenBusOpen_closed {s : State} (h : s.busOpen = false) (k : Result) :
    whenBusOpen s k = .next (s.raise .busError) := by simp [whenBusOpen, h]

theorem State.fsIdle_iff (s : State) : s.fsIdle = true ↔ s.fs.st = .idle := by simp [State.fsIdle]

/-- The lowest idle sequencer is idle, and every lower one is busy (R73). -/
theorem State.lowestIdleBs_spec {s : State} {j : Nat} (h : s.lowestIdleBs = some j) :
    ∃ b, s.bs[j]? = some b ∧ b.st = .idle ∧ ∀ i < j, ∀ q, s.bs[i]? = some q → q.st ≠ .idle := by
  unfold State.lowestIdleBs at h
  rw [List.findIdx?_eq_some_iff_getElem] at h
  obtain ⟨hj, hb, hlow⟩ := h
  refine ⟨s.bs[j], by simp [hj], by simpa using hb, ?_⟩
  intro i hi q hq
  have := hlow i hi
  have hi' : i < s.bs.length := by omega
  rw [List.getElem?_eq_getElem hi'] at hq
  cases hq
  simpa using this

/-- A bound slot is in range, in the file, and bound (R75). -/
theorem State.boundSlot_some {s : State} {slot : Byte} {sl : Slot} (h : s.boundSlot slot = some sl) :
    slot.toNat < s.params.nt ∧ s.slots[slot.toNat]? = some sl ∧ sl.bound = true := by
  unfold State.boundSlot at h
  split at h
  · split at h
    · split at h
      · simp_all
      · cases h
    · cases h
  · cases h

theorem State.boundSlot_of {s : State} {slot : Byte} {sl : Slot} (h1 : slot.toNat < s.params.nt)
    (h2 : s.slots[slot.toNat]? = some sl) (h3 : sl.bound = true) : s.boundSlot slot = some sl := by
  simp [State.boundSlot, h1, h2, h3]

/-! ### Checksums -/

theorem xorFold_append (xs ys : List Byte) : xorFold (xs ++ ys) = xorFold xs ^^^ xorFold ys := by
  induction xs with
  | nil => simp [xorFold]
  | cons x xs ih =>
    simp only [xorFold, List.cons_append, List.foldr_cons] at *
    rw [ih, BitVec.xor_assoc]

/-! ### BUS_STEP -/

/-- Everything BUS_STEP can do (41_sensor R142): end the command on a lost bus, change nothing on a
blocked answer, close the bus and end the command on a failure, or log the transaction and go on. -/
theorem busStep_cases {α : Type} (j : Nat) (owner : CallerId) (r : Answer α) (ev : Reply α → Event)
    (k : α → State → State) (s : State) :
    (s.busOpen = false ∧ busStep j owner r ev k s = s.finishBs j owner .busError) ∨
    (s.busOpen = true ∧ r = .blocked ∧ busStep j owner r ev k s = s) ∨
    (s.busOpen = true ∧ r = .fail ∧
      busStep j owner r ev k s =
        ((s.log (.bs j) (ev .fail)).setBusOpen false).finishBs j owner .busError) ∨
    (s.busOpen = true ∧ ∃ v, r = .ok v ∧ busStep j owner r ev k s = k v (s.log (.bs j) (ev (.ok v)))) := by
  unfold busStep
  cases hb : s.busOpen <;> cases r <;> simp

/-! ### The host's side and reset -/

/-- Everything an issue can do (10_state R34). -/
theorem State.issue_cases (c : CallerId) (w : Word) (s : State) :
    (s.caller c = none ∧ s.issue c w = s.setCaller c (.held w)) ∨
      ((∃ v, s.caller c = some v) ∧ s.issue c w = s) := by
  unfold State.issue
  cases h : s.caller c <;> simp

/-- Everything a receive can do (10_state R34). -/
theorem State.receive_cases (c : CallerId) (s : State) :
    (∃ r, s.caller c = some (.done r) ∧
        s.receive c = { s.clearCaller c with results := s.results ++ [(c, r)] }) ∨
      ((∀ r, s.caller c ≠ some (.done r)) ∧ s.receive c = s) := by
  unfold State.receive
  split <;> simp_all

@[simp] theorem State.resetEvent_params (s : State) : s.resetEvent.params = s.params := rfl
@[simp] theorem State.resetEvent_history (s : State) : s.resetEvent.history = s.history := rfl
@[simp] theorem State.resetEvent_callers (s : State) : s.resetEvent.callers = [] := rfl
@[simp] theorem State.resetEvent_fs (s : State) : s.resetEvent.fs = Fs.reset := rfl
@[simp] theorem State.resetEvent_bs (s : State) :
    s.resetEvent.bs = List.replicate s.params.np Bs.reset := rfl
@[simp] theorem State.resetEvent_slots (s : State) :
    s.resetEvent.slots = List.replicate s.params.nt Slot.reset := rfl
@[simp] theorem State.resetEvent_results (s : State) : s.resetEvent.results = s.results := rfl

end Sys2Proof.Machine
end

