-- ==== Sys2Proof/Laws/PerInstr.lean ====
section
/-! SUPPORT. Statements made once per instruction, and their proofs. -/

namespace Sys2Proof.Laws.CodeWidth

/-- A command word is 32 bits; a throttle or function frame is 6 bytes and an accessory frame 4
(spec 30_encoding R70, R92). -/
def Statement : Sys2Proof.Instr → Prop
  | .openSerial => (Sys2Proof.encode .openSerial).bits = 32
  | .closeSerial => (Sys2Proof.encode .closeSerial).bits = 32
  | .setDiag en => (Sys2Proof.encode (.setDiag en)).bits = 32
  | .bindTrain slot addr => (Sys2Proof.encode (.bindTrain slot addr)).bits = 32
  | .throttle slot dir speed => (Sys2Proof.encode (.throttle slot dir speed)).bits = 32
  | .function slot num sw => (Sys2Proof.encode (.function slot num sw)).bits = 32
  | .activate addr offset => (Sys2Proof.encode (.activate addr offset)).bits = 32
  | .deactivate addr offset => (Sys2Proof.encode (.deactivate addr offset)).bits = 32
  | .openBus => (Sys2Proof.encode .openBus).bits = 32
  | .closeBus => (Sys2Proof.encode .closeBus).bits = 32
  | .configure ctrl => (Sys2Proof.encode (.configure ctrl)).bits = 32
  | .makeSensor ctrl bank port => (Sys2Proof.encode (.makeSensor ctrl bank port)).bits = 32
  | .wait ctrl bank port => (Sys2Proof.encode (.wait ctrl bank port)).bits = 32
  | .frameThrottle addr dir speed c => (Sys2Proof.encode (.frameThrottle addr dir speed c)).bits = 48
  | .frameFunction g addr v c => (Sys2Proof.encode (.frameFunction g addr v c)).bits = 48
  | .frameActivate a o c => (Sys2Proof.encode (.frameActivate a o c)).bits = 32
  | .frameDeactivate a o c => (Sys2Proof.encode (.frameDeactivate a o c)).bits = 32

theorem openSerial : Statement .openSerial := rfl
theorem closeSerial : Statement .closeSerial := rfl
theorem setDiag (en) : Statement (.setDiag en) := rfl
theorem bindTrain (slot addr) : Statement (.bindTrain slot addr) := rfl
theorem throttle (slot dir speed) : Statement (.throttle slot dir speed) := rfl
theorem function (slot num sw) : Statement (.function slot num sw) := rfl
theorem activate (addr offset) : Statement (.activate addr offset) := rfl
theorem deactivate (addr offset) : Statement (.deactivate addr offset) := rfl
theorem openBus : Statement .openBus := rfl
theorem closeBus : Statement .closeBus := rfl
theorem configure (ctrl) : Statement (.configure ctrl) := rfl
theorem makeSensor (ctrl bank port) : Statement (.makeSensor ctrl bank port) := rfl
theorem wait (ctrl bank port) : Statement (.wait ctrl bank port) := rfl
theorem frameThrottle (addr dir speed c) : Statement (.frameThrottle addr dir speed c) := rfl
theorem frameFunction (g addr v c) : Statement (.frameFunction g addr v c) := rfl
theorem frameActivate (a o c) : Statement (.frameActivate a o c) := rfl
theorem frameDeactivate (a o c) : Statement (.frameDeactivate a o c) := rfl

end Sys2Proof.Laws.CodeWidth
end

