-- ==== Sys2Proof/Laws/Step.lean ====
section
/-! SUPPORT. What exec and the agents' steps can do, said once: the possible next states of a command's
acceptance, of FS's step and of a bus sequencer's step. -/

namespace Sys2Proof.Machine

/-! ### FS -/

@[simp] theorem fsWrite_busy {s : State} (h : s.fs.busy = true) :
    fsWrite s = .next (fsWritten s.fs.owner s.fs.buf s) := by
  simp only [fsWrite, reading_fsOwner h, reading_fsBuf h]

@[simp] theorem fsDrain_busy {s : State} (h : s.fs.busy = true) :
    fsDrain s = .next (fsDrained s.fs.owner s.fs.attempt s) := by
  simp only [fsDrain, reading_fsOwner h, reading_fsAttempt h]

theorem Fs.busy_of_write {f : Fs} (h : f.st = .write) : f.busy = true := by simp [Fs.busy, h]

/-- Everything a SerWrite can do (R120). -/
theorem fsWritten_cases (owner : CallerId) (buf : List Byte) (s : State) :
    (s.draw.write = .blocked ∧ fsWritten owner buf s = s) ∨
    (s.draw.write = .fail ∧ fsWritten owner buf s =
      ((s.log .fs (.serWrite buf .fail)).setSerialOpen false).finishFs owner .transportError) ∨
    (s.draw.write = .ok () ∧ fsWritten owner buf s =
      ((s.log .fs (.serWrite buf (.ok ()))).echoTx buf).setFsSt .settle) := by
  unfold fsWritten
  cases s.draw.write <;> simp

/-- Everything the end of an attempt can do (R120, R123). -/
theorem fsAttemptDone_cases (owner : CallerId) (n : Nat) (rx : List Byte) (s : State) :
    (enq ∈ rx ∧ fsAttemptDone owner n rx s = s.finishFs owner .ok) ∨
    (enq ∉ rx ∧ n + 1 < maxAttempts ∧
      fsAttemptDone owner n rx s = s.setFs { s.fs with attempt := n + 1, st := .write }) ∨
    (enq ∉ rx ∧ maxAttempts ≤ n + 1 ∧
      fsAttemptDone owner n rx s = (s.setFs { s.fs with attempt := n + 1 }).finishFs owner .protocolError) := by
  unfold fsAttemptDone
  by_cases h : enq ∈ rx
  · simp [h]
  · by_cases h2 : n + 1 < maxAttempts
    · right; left
      refine ⟨h, h2, ?_⟩
      simp only [if_neg h, if_pos h2]
      rfl
    · right; right
      refine ⟨h, by omega, ?_⟩
      simp only [if_neg h, if_neg h2]

/-- Everything a SerDrain can do (R120). -/
theorem fsDrained_cases (owner : CallerId) (n : Nat) (s : State) :
    (s.draw.drain = .blocked ∧ fsDrained owner n s = s) ∨
    (s.draw.drain = .fail ∧ fsDrained owner n s =
      ((s.log .fs (.serDrain .fail)).setSerialOpen false).finishFs owner .transportError) ∨
    (∃ rx, s.draw.drain = .ok rx ∧ fsDrained owner n s =
      fsAttemptDone owner n rx ((s.log .fs (.serDrain (.ok rx))).echoRx rx)) := by
  unfold fsDrained
  cases s.draw.drain <;> simp

/-! ### Acceptance -/

/-- Everything exec of i can do when it answers a next state: the command is held; or it is answered, with a
lifecycle event, a flag or a slot written first or not; or a send starts on the idle FS; or a bus command
starts on an idle sequencer; or a frame is written. -/
inductive Accepted (i : Instr) (s : State) : State → Prop where
  | held : Accepted i s s
  | answered (k : ResultCode) (d : Byte) (hd : d = 0#8 ∨ k = .ok) : Accepted i s (s.complete k d)
  | serial (e : Event) (v : Bool) (k : ResultCode) (hi : s.fs.st = .idle)
      (he : e.isDiag = false) (hb : ∀ p, e.busAllowed p = true) (hw : ∀ b r, e ≠ .serWrite b r)
      (hv : (i = .openSerial ∧ s.serialOpen = false) ∨ (i = .closeSerial ∧ v = false)) :
      Accepted i s (((s.log (.host s.issuer) e).setSerialOpen v).complete k 0#8)
  | bus (e : Event) (v : Bool) (k : ResultCode)
      (he : e.isDiag = false) (hb : ∀ p, e.busAllowed p = true) (hw : ∀ b r, e ≠ .serWrite b r)
      (hv : (i = .openBus ∧ s.busOpen = false) ∨ (i = .closeBus ∧ v = false)) :
      Accepted i s (((s.log (.host s.issuer) e).setBusOpen v).complete k 0#8)
  | diag (en : Switch) (v : Bool) (hv : i = .setDiag en) :
      Accepted i s ((s.setDiag v).complete .ok 0#8)
  | bind (slot : Byte) (addr : BitVec 16) (a : DccAddr) (hn : slot.toNat < s.params.nt)
      (hv : i = .bindTrain slot addr) :
      Accepted i s
        ((s.setSlot slot.toNat { bound := true, addr := a, grp := #v[0#8, 0#8, 0#8] }).complete .ok 0#8)
  | send (body : List Byte) (hi : s.fs.st = .idle) (ho : s.serialOpen = true)
      (hb : s.params.wellFormed = true → blockFrame s.params (frameOf body) = true) :
      Accepted i s (startTx body s)
  | sendFn (body : List Byte) (slot num : Byte) (sw : Switch) (sl new : Slot) (hi : s.fs.st = .idle)
      (ho : s.serialOpen = true) (hv : i = .function slot num sw) (hs : s.slots[slot.toNat]? = some sl)
      (hk : sl.bound = true ∧ new.bound = true ∧ new.addr = sl.addr)
      (hb : s.params.wellFormed = true → blockFrame s.params (frameOf body) = true) :
      Accepted i s (startTx body (s.setSlot slot.toNat new))
  | onBs (j : Nat) (b new : Bs) (hj : s.bs[j]? = some b) (hi : b.st = .idle) (hn : new.st ≠ .idle)
      (hp : new.st.phase ≠ some .armed) (ho : new.owner = s.issuer)
      (hw : new.st.inWait = true → new.mask ∈ portMasks ∧ new.ind = s.params.regOff .b .data ∧
        (new.cap = s.params.regOff .a .cap ∨ new.cap = s.params.regOff .b .cap)) :
      Accepted i s { s with bs := s.bs.set j new, callers := Callers.put s.issuer .running s.callers }
  | frame (bytes : List Byte) (hf : encode i = .frame bytes) (hw : s.fs.st = .write) :
      Accepted i s (fsWritten s.fs.owner s.fs.buf s)

/-! ### The frames the sends build -/

theorem checksumOk_frameOf (body : List Byte) : checksumOk (frameOf body) = true := by
  simp only [checksumOk, frameOf, xorFold_append]
  simp [xorFold]

theorem dir_bit_shift (dir : Dir) (speed : Byte) :
    (dir.bit.setWidth 8 <<< 7) ||| (speed &&& 0x7F#8) = dir.bit ++ speed.extractLsb' 0 7 := by
  cases dir <;> (revert speed; decide)

theorem accessory_b2 (offset : Byte) :
    ((offset ||| 0x80#8) &&& 0xFE#8) ||| 0x00#8 = 1#1 ++ offset.extractLsb' 1 6 ++ 0#1 ∧
      ((offset ||| 0x80#8) &&& 0xFE#8) ||| 0x01#8 = 1#1 ++ offset.extractLsb' 1 6 ++ 1#1 := by
  revert offset
  decide

/-- A code whose decoding is a well-formed frame the reader classifies is a frame the block sends. -/
theorem blockFrame_of {p : Params} {bytes : List Byte} {i : Instr} (hd : decodeFrame bytes = .ok i)
    (hw : i.wellFormed = true) (hc : (p.classify bytes).isSome = true) : blockFrame p bytes = true := by
  simp [blockFrame, hd, hw, hc]

theorem decodeFrame_throttle (a : DccAddr) (dir : Dir) (speed : BitVec 7) (c : Byte) :
    decodeFrame [opThrottle, stepMode, addrHi a, addrLo a, dir.bit ++ speed, c] =
      .ok (.frameThrottle a dir speed c) := by
  have h1 : (dir.bit ++ speed : Byte).extractLsb' 7 1 = dir.bit := by
    simp (disch := omega) only [BitVec.extractLsb'_append_eq_of_le]
    simp
  have h2 : (dir.bit ++ speed : Byte).extractLsb' 0 7 = speed := by
    simp (disch := omega) only [BitVec.extractLsb'_append_eq_of_add_le]
    simp
  simp [decodeFrame, decodeFrame6, addrHi_top, addrOf_hi_lo, h1, h2]

theorem decodeFrame_function {g : Byte} (h1 : g ≠ opThrottle) (h2 : g ≠ opAccessory) (a : DccAddr)
    (v c : Byte) :
    decodeFrame [g, fnByte1, addrHi a, addrLo a, v, c] = .ok (.frameFunction g a v c) := by
  simp [decodeFrame, decodeFrame6, addrHi_top, addrOf_hi_lo, h1, h2]

theorem decodeFrame_activate (a : Byte) (o : BitVec 6) (c : Byte) :
    decodeFrame [opAccessory, a, 1#1 ++ o ++ 1#1, c] = .ok (.frameActivate a o c) := by
  simp (disch := omega) only [decodeFrame, decodeFrame4, BitVec.extractLsb'_append_eq_of_le,
    BitVec.extractLsb'_append_eq_of_add_le]
  simp

theorem decodeFrame_deactivate (a : Byte) (o : BitVec 6) (c : Byte) :
    decodeFrame [opAccessory, a, 1#1 ++ o ++ 0#1, c] = .ok (.frameDeactivate a o c) := by
  simp (disch := omega) only [decodeFrame, decodeFrame4, BitVec.extractLsb'_append_eq_of_le,
    BitVec.extractLsb'_append_eq_of_add_le]
  simp

theorem blockFrame_throttle (p : Params) (a : DccAddr) (dir : Dir) (speed : Byte) :
    blockFrame p (frameOf (throttleBody a dir speed)) = true := by
  have hf : frameOf (throttleBody a dir speed) =
      [opThrottle, stepMode, addrHi a, addrLo a, dir.bit ++ speed.extractLsb' 0 7,
        xorFold (throttleBody a dir speed)] := by
    simp [frameOf, throttleBody, dir_bit_shift]
  refine blockFrame_of (i := .frameThrottle a dir (speed.extractLsb' 0 7)
    (xorFold (throttleBody a dir speed))) ?_ ?_ ?_
  · rw [hf, decodeFrame_throttle]
  · simp only [Instr.wellFormed, encode, Code.frameBytes]
    rw [← hf]
    exact checksumOk_frameOf _
  · rw [hf]
    simp [Params.classify, opThrottle, opAccessory]

theorem blockFrame_accessory (p : Params) (addr offset x : Byte) (hx : x = 0x00#8 ∨ x = 0x01#8) :
    blockFrame p (frameOf (accessoryBody addr offset x)) = true := by
  have hc : (p.classify (frameOf (accessoryBody addr offset x))).isSome = true := by
    simp [Params.classify, frameOf, accessoryBody]
  have hs := checksumOk_frameOf (accessoryBody addr offset x)
  rcases hx with rfl | rfl
  · have hf : frameOf (accessoryBody addr offset 0x00#8) =
        [opAccessory, addr, 1#1 ++ offset.extractLsb' 1 6 ++ 0#1,
          xorFold (accessoryBody addr offset 0x00#8)] := by
      simp only [frameOf, accessoryBody, (accessory_b2 offset).1]
      rfl
    refine blockFrame_of (i := .frameDeactivate addr (offset.extractLsb' 1 6)
      (xorFold (accessoryBody addr offset 0x00#8))) ?_ ?_ hc
    · rw [hf, decodeFrame_deactivate]
    · simp only [Instr.wellFormed, encode, accessoryBytes, Code.frameBytes]
      rw [← hf]
      exact hs
  · have hf : frameOf (accessoryBody addr offset 0x01#8) =
        [opAccessory, addr, 1#1 ++ offset.extractLsb' 1 6 ++ 1#1,
          xorFold (accessoryBody addr offset 0x01#8)] := by
      simp only [frameOf, accessoryBody, (accessory_b2 offset).2]
      rfl
    refine blockFrame_of (i := .frameActivate addr (offset.extractLsb' 1 6)
      (xorFold (accessoryBody addr offset 0x01#8))) ?_ ?_ hc
    · rw [hf, decodeFrame_activate]
    · simp only [Instr.wellFormed, encode, accessoryBytes, Code.frameBytes]
      rw [← hf]
      exact hs

theorem Params.funcRow_mem {p : Params} {num : Byte} {row : FuncRow} (h : p.funcRow num = some row) :
    row ∈ p.funcTable.toList := by
  unfold Params.funcRow at h
  rw [Vector.getElem?_eq_some_iff] at h
  obtain ⟨h1, h2⟩ := h
  rw [← h2]
  simp

theorem Params.opcode_apart {p : Params} (hp : p.wellFormed = true) {row : FuncRow}
    (h : row ∈ p.funcTable.toList) : row.groupOpcode ≠ opThrottle ∧ row.groupOpcode ≠ opAccessory := by
  simp only [Params.wellFormed, Bool.and_eq_true] at hp
  have := (List.all_eq_true.1 hp.1.1.2) row h
  simpa using this

theorem Params.find_opcode {p : Params} {row : FuncRow} (h : row ∈ p.funcTable.toList) :
    ∃ r, (p.funcTable.toList.find? fun r => row.groupOpcode == r.groupOpcode) = some r ∧
      r.groupOpcode = row.groupOpcode := by
  cases hf : p.funcTable.toList.find? fun r => row.groupOpcode == r.groupOpcode with
  | none => exact absurd (List.find?_eq_none.1 hf row h) (by simp)
  | some r =>
    have := List.find?_some hf
    exact ⟨r, rfl, (by simpa using this : row.groupOpcode = r.groupOpcode).symm⟩

theorem blockFrame_function {p : Params} (hp : p.wellFormed = true) {num : Byte} {row : FuncRow}
    (h : p.funcRow num = some row) (a : DccAddr) (v : Byte) :
    blockFrame p (frameOf (functionBody row.groupOpcode a v)) = true := by
  obtain ⟨h1, h2⟩ := Params.opcode_apart hp (Params.funcRow_mem h)
  obtain ⟨r, hr, _⟩ := Params.find_opcode (Params.funcRow_mem h)
  have hf : frameOf (functionBody row.groupOpcode a v) =
      [row.groupOpcode, fnByte1, addrHi a, addrLo a, v, xorFold (functionBody row.groupOpcode a v)] := rfl
  refine blockFrame_of (i := .frameFunction row.groupOpcode a v
    (xorFold (functionBody row.groupOpcode a v))) ?_ ?_ ?_
  · rw [hf, decodeFrame_function h1 h2]
  · simp only [Instr.wellFormed, encode, Code.frameBytes, ← hf, checksumOk_frameOf]
    simp [h1, h2]
  · rw [hf]
    simp only [Params.classify, List.getElem?_cons_zero, Option.some.injEq, h1, h2, false_and, if_false,
      Option.some_beq_some, hr]
    simp

/-! ### Exec answers -/

theorem acceptWhen_next {free : Bool} {s t : State} {k : Result} (h : acceptWhen free s k = .next t) :
    t = s ∨ (free = true ∧ k = .next t) := by
  cases free
  · left
    simpa using h.symm
  · exact .inr ⟨rfl, h⟩

theorem whenSerialOpen_next {s t : State} {k : Result} (h : whenSerialOpen s k = .next t) :
    (s.serialOpen = false ∧ t = s.raise .transportError) ∨ (s.serialOpen = true ∧ k = .next t) := by
  unfold whenSerialOpen at h
  split at h
  · exact .inr ⟨‹_›, h⟩
  · rename_i hc
    exact .inl ⟨by simpa using hc, by simpa using h.symm⟩

theorem whenBusOpen_next {s t : State} {k : Result} (h : whenBusOpen s k = .next t) :
    (s.busOpen = false ∧ t = s.raise .busError) ∨ (s.busOpen = true ∧ k = .next t) := by
  unfold whenBusOpen at h
  split at h
  · exact .inr ⟨‹_›, h⟩
  · rename_i hc
    exact .inl ⟨by simpa using hc, by simpa using h.symm⟩

theorem busClass_next {s t : State} {k : Nat → Result} (h : busClass s k = .next t) :
    t = s ∨ ∃ j b, s.lowestIdleBs = some j ∧ s.bs[j]? = some b ∧ b.st = .idle ∧ k j = .next t := by
  unfold busClass at h
  split at h
  · rename_i j hj
    obtain ⟨b, h1, h2, _⟩ := State.lowestIdleBs_spec hj
    exact .inr ⟨j, b, hj, h1, h2, h⟩
  · left
    simpa using h.symm

theorem sendFrame_next {bytes : List Byte} {s t : State} (h : sendFrame bytes s = .next t) :
    s.fs.st = .write ∧ t = fsWritten s.fs.owner s.fs.buf s := by
  unfold sendFrame at h
  split at h
  · rename_i hw
    rw [fsWrite_busy (Fs.busy_of_write hw.1)] at h
    exact ⟨hw.1, by simpa using h.symm⟩
  · cases h

theorem State.modifyBs_eq {s : State} {j : Nat} {b : Bs} (h : s.bs[j]? = some b) (f : Bs → Bs) :
    s.modifyBs j f = { s with bs := s.bs.set j (f b) } := by
  obtain ⟨hj, hb⟩ := List.getElem?_eq_some_iff.1 h
  simp only [State.modifyBs, List.modify_eq_set_getElem?, h]
  rfl

theorem portMask?_some {port m : Byte} (h : portMask? port = some m) : m ∈ portMasks := by
  revert h
  revert port m
  decide

theorem State.setSerialOpen_self {s : State} {v : Bool} (h : s.serialOpen = v) :
    s.setSerialOpen v = s := by
  subst h
  rfl

theorem State.setBusOpen_self {s : State} {v : Bool} (h : s.busOpen = v) : s.setBusOpen v = s := by
  subst h
  rfl

/-- A serial command's acceptance: held, or accepted on the idle FS. -/
theorem serialClass_accepted {i : Instr} {s t : State} {k : Result} (h : serialClass s k = .next t)
    (hk : s.fs.st = .idle → k = .next t → Accepted i s t) : Accepted i s t := by
  rcases acceptWhen_next h with rfl | ⟨hi, h⟩
  · exact .held
  · exact hk ((State.fsIdle_iff s).1 hi) h

/-- A connection check: TransportError, or an open link. -/
theorem whenSerialOpen_accepted {i : Instr} {s t : State} {k : Result} (h : whenSerialOpen s k = .next t)
    (hk : s.serialOpen = true → k = .next t → Accepted i s t) : Accepted i s t := by
  rcases whenSerialOpen_next h with ⟨_, rfl⟩ | ⟨ho, h⟩
  · exact .answered .transportError 0#8 (.inl rfl)
  · exact hk ho h

/-- A connection check: BusError, or an open bus. -/
theorem whenBusOpen_accepted {i : Instr} {s t : State} {k : Result} (h : whenBusOpen s k = .next t)
    (hk : s.busOpen = true → k = .next t → Accepted i s t) : Accepted i s t := by
  rcases whenBusOpen_next h with ⟨_, rfl⟩ | ⟨ho, h⟩
  · exact .answered .busError 0#8 (.inl rfl)
  · exact hk ho h

/-- exec's next states. -/
theorem exec_accepted {i : Instr} {s t : State} (h : exec i s = .next t) : Accepted i s t := by
  have raised : ∀ k, Accepted i s (s.raise k) := fun k => .answered k 0#8 (.inl rfl)
  cases i with
  | openSerial =>
    refine serialClass_accepted h fun hi h => ?_
    simp only [Host.Outcome.next.injEq] at h
    split at h
    · subst h; exact raised _
    · rename_i hc
      split at h
      · have hs : (s.log (.host s.issuer) (.serOpen s.params.deviceId s.params.baud .fail)).serialOpen =
            false := by simpa using hc
        rw [← State.setSerialOpen_self hs] at h
        subst h
        exact .serial _ false .transportError hi rfl (fun _ => rfl) (by simp) (.inl ⟨rfl, by simpa using hc⟩)
      · subst h
        exact .serial _ true .ok hi rfl (fun _ => rfl) (by simp) (.inl ⟨rfl, by simpa using hc⟩)
  | closeSerial =>
    refine serialClass_accepted h fun hi h => whenSerialOpen_accepted h fun _ h => ?_
    simp only [Host.Outcome.next.injEq] at h
    split at h <;> subst h
    · exact .serial _ false .transportError hi rfl (fun _ => rfl) (by simp) (.inr ⟨rfl, rfl⟩)
    · exact .serial _ false .ok hi rfl (fun _ => rfl) (by simp) (.inr ⟨rfl, rfl⟩)
  | setDiag en =>
    cases h
    exact .diag en _ rfl
  | bindTrain slot addr =>
    simp only [exec, execBindTrain, Host.Outcome.next.injEq] at h
    split at h
    · rename_i hn
      split at h <;> subst h
      · exact .bind slot addr _ hn rfl
      · exact raised _
    · subst h; exact raised _
  | throttle slot dir speed =>
    refine serialClass_accepted h fun hi h => ?_
    split at h
    · cases h; exact raised _
    · rename_i sl hsl
      split at h
      · refine whenSerialOpen_accepted h fun ho h => ?_
        rw [reading_slotAddr (State.boundSlot_some hsl).2.2] at h
        cases h
        exact .send _ hi ho fun _ => blockFrame_throttle _ _ _ _
      · cases h; exact raised _
  | function slot num sw =>
    refine serialClass_accepted h fun hi h => ?_
    split at h
    · cases h; exact raised _
    · rename_i sl hsl
      split at h
      · cases h; exact raised _
      · rename_i row hrow
        refine whenSerialOpen_accepted h fun ho h => ?_
        obtain ⟨_, hs, hb⟩ := State.boundSlot_some hsl
        rw [reading_slotAddr hb, reading_slotGrp hb] at h
        cases h
        exact .sendFn _ slot num sw sl _ hi ho rfl hs ⟨hb, hb, rfl⟩ fun hp => blockFrame_function hp hrow _ _
  | activate addr offset =>
    refine serialClass_accepted h fun hi h => whenSerialOpen_accepted h fun ho h => ?_
    cases h
    exact .send _ hi ho fun _ => blockFrame_accessory _ _ _ _ (.inr rfl)
  | deactivate addr offset =>
    refine serialClass_accepted h fun hi h => whenSerialOpen_accepted h fun ho h => ?_
    cases h
    exact .send _ hi ho fun _ => blockFrame_accessory _ _ _ _ (.inl rfl)
  | openBus =>
    simp only [exec, execOpenBus, Host.Outcome.next.injEq] at h
    split at h
    · subst h; exact raised _
    · rename_i hc
      split at h
      · have hs : (s.log (.host s.issuer) (.busOpen .fail)).busOpen = false := by simpa using hc
        rw [← State.setBusOpen_self hs] at h
        subst h
        exact .bus _ false .busError rfl (fun _ => rfl) (by simp) (.inl ⟨rfl, by simpa using hc⟩)
      · subst h
        exact .bus _ true .ok rfl (fun _ => rfl) (by simp) (.inl ⟨rfl, by simpa using hc⟩)
  | closeBus =>
    rcases acceptWhen_next h with rfl | ⟨_, h⟩
    · exact .held
    · refine whenBusOpen_accepted h fun _ h => ?_
      simp only [Host.Outcome.next.injEq] at h
      split at h <;> subst h
      · exact .bus _ false .busError rfl (fun _ => rfl) (by simp) (.inr ⟨rfl, rfl⟩)
      · exact .bus _ false .ok rfl (fun _ => rfl) (by simp) (.inr ⟨rfl, rfl⟩)
  | configure ctrl =>
    rcases busClass_next h with rfl | ⟨j, b, _, hj, hb, h⟩
    · exact .held
    · refine whenBusOpen_accepted h fun _ h => ?_
      rw [State.modifyBs_eq hj] at h
      cases h
      exact .onBs j b { b with dev := ctrl, owner := s.issuer, st := .cfgDirA } hj hb (by simp)
        (by simp [BsSt.phase]) rfl (by simp [BsSt.inWait])
  | makeSensor ctrl bank port =>
    simp only [exec, execMakeSensor, Host.Outcome.next.injEq] at h
    split at h
    · subst h; exact raised _
    · split at h <;> subst h
      · exact raised _
      · exact .answered .ok _ (.inr rfl)
  | wait ctrl bank port =>
    rcases busClass_next h with rfl | ⟨j, b, _, hj, hb, h⟩
    · exact .held
    · split at h
      · cases h; exact raised _
      · rename_i m hm
        split at h
        · cases h; exact raised _
        · rename_i side hside
          refine whenBusOpen_accepted h fun _ h => ?_
          rw [State.modifyBs_eq hj] at h
          cases h
          refine .onBs j b _ hj hb (by simp) (by simp [BsSt.phase]) rfl fun _ => ⟨portMask?_some hm, rfl, ?_⟩
          cases side
          · exact .inl rfl
          · exact .inr rfl
  | frameThrottle addr dir speed c =>
    obtain ⟨hw, rfl⟩ := sendFrame_next h
    exact .frame _ rfl hw
  | frameFunction g addr v c =>
    obtain ⟨hw, rfl⟩ := sendFrame_next h
    exact .frame _ rfl hw
  | frameActivate a o c =>
    obtain ⟨hw, rfl⟩ := sendFrame_next h
    exact .frame _ rfl hw
  | frameDeactivate a o c =>
    obtain ⟨hw, rfl⟩ := sendFrame_next h
    exact .frame _ rfl hw

/-! ### A bus sequencer's step -/

/-- The events a busy bus sequencer's state may append, with the register values b holds (20_memory R55). -/
inductive BsEvent (p : Params) (b : Bs) : Event → Prop where
  | sleep (hs : b.st = .wSleep) : BsEvent p b (.sleep pollMs)
  | cap (r : Reply Byte) (hs : b.st.inWait = true) (hr : b.st.reads = true) :
      BsEvent p b (.busRead b.dev b.cap r)
  | indRead (r : Reply Byte) (hs : b.st.inWait = true) (hr : b.st.reads = true) :
      BsEvent p b (.busRead b.dev b.ind r)
  | indWrite (v : Byte) (r : Reply Unit) (hs : b.st.inWait = true) (hr : b.st.writes = true) :
      BsEvent p b (.busWrite b.dev b.ind v r)
  | dirA (r : Reply Unit) (hr : b.st = .cfgDirA) :
      BsEvent p b (.busWrite b.dev (p.regOff .a .dir) p.cfgDirAIn r)
  | dirB (r : Reply Unit) (hr : b.st = .cfgDirB) :
      BsEvent p b (.busWrite b.dev (p.regOff .b .dir) p.cfgDirBOut r)
  | puA (r : Reply Unit) (hr : b.st = .cfgPuA) :
      BsEvent p b (.busWrite b.dev (p.regOff .a .pullup) p.cfgPullupAAll r)
  | ieA (r : Reply Unit) (hr : b.st = .cfgIeA) :
      BsEvent p b (.busWrite b.dev (p.regOff .a .inten) p.cfgIntenAAll r)

/-- Everything a turn of BS[j], whose registers are b, can do: nothing; the end of the command on a lost bus
or a failed transaction; a move to its next state; the end of the command with OK. -/
inductive BsStepped (j : Nat) (b : Bs) (s : State) : State → Prop where
  | same : BsStepped j b s s
  | lost (hb : b.st ≠ .idle) (ho : s.busOpen = false) :
      BsStepped j b s (s.finishBs j b.owner .busError)
  | failed (e : Event) (hb : b.st ≠ .idle) (ho : s.busOpen = true) (he : BsEvent s.params b e)
      (hf : (b.st.reads = true ∧ s.draw.read = .fail) ∨ (b.st.writes = true ∧ s.draw.write = .fail)) :
      BsStepped j b s (((s.log (.bs j) e).setBusOpen false).finishBs j b.owner .busError)
  | moved (e : Event) (st : BsSt) (tmp : Byte) (hb : b.st ≠ .idle) (he : BsEvent s.params b e)
      (hw : st.inWait = b.st.inWait) (hi : st ≠ .idle)
      (ha : st.phase = some .armed → b.st.phase = some .armed ∨
        (b.st = .wIoffWr ∧ e = .busWrite b.dev b.ind (b.tmp &&& ~~~b.mask) (.ok ()))) :
      BsStepped j b s { s.log (.bs j) e with bs := s.bs.set j { b with st := st, tmp := tmp } }
  | done (e : Event) (hb : b.st ≠ .idle) (he : BsEvent s.params b e)
      (hw : b.st.inWait = true → b.st = .wIonWr ∧ e = .busWrite b.dev b.ind (b.tmp ||| b.mask) (.ok ())) :
      BsStepped j b s ((s.log (.bs j) e).finishBs j b.owner .ok)

/-- A bus sequencer's next states, from any registers it can hold. -/
theorem bsAct_stepped {j : Nat} {b : Bs} {s t : State} (hj : s.bs[j]? = some b)
    (h : bsAct j b s = .next t) : BsStepped j b s t := by
  have bsStep : ∀ {α : Type} {r : Answer α} {ev : Reply α → Event} {k : α → State → State},
      b.st ≠ .idle → (∀ r, BsEvent s.params b (ev r)) →
      (r = .fail → (b.st.reads = true ∧ s.draw.read = .fail) ∨
        (b.st.writes = true ∧ s.draw.write = .fail)) →
      (∀ v, BsStepped j b s (k v (s.log (.bs j) (ev (.ok v))))) →
      BsStepped j b s (busStep j b.owner r ev k s) := by
    intro α r ev k hb he hf hk
    rcases busStep_cases j b.owner r ev k s with ⟨ho, h⟩ | ⟨_, _, h⟩ | ⟨ho, hr, h⟩ | ⟨_, v, _, h⟩ <;> rw [h]
    · exact .lost hb ho
    · exact .same
    · exact .failed _ hb ho (he _) (hf hr)
    · exact hk v
  have moved : ∀ {e : Event} {st : BsSt} {tmp : Byte}, b.st ≠ .idle → BsEvent s.params b e →
      st.inWait = b.st.inWait → st ≠ .idle →
      (st.phase = some .armed → b.st.phase = some .armed ∨
        (b.st = .wIoffWr ∧ e = .busWrite b.dev b.ind (b.tmp &&& ~~~b.mask) (.ok ()))) →
      ∀ {u : State}, u = { s.log (.bs j) e with bs := s.bs.set j { b with st := st, tmp := tmp } } →
      BsStepped j b s u := by
    intro e st tmp hb he hw hi ha u hu
    exact hu ▸ .moved e st tmp hb he hw hi ha
  have hmod : ∀ (u : State) (f : Bs → Bs), u.bs = s.bs →
      u.modifyBs j f = { u with bs := s.bs.set j (f b) } := by
    intro u f hu
    rw [State.modifyBs_eq (hu ▸ hj), hu]
  have htwo : ∀ (u : State) (v : Byte) (st : BsSt), u.bs = s.bs →
      (u.setBsTmp j v).setBsSt j st = { u with bs := s.bs.set j { b with st := st, tmp := v } } := by
    intro u v st hu
    obtain ⟨hlt, hbj⟩ := List.getElem?_eq_some_iff.1 hj
    rw [State.setBsTmp, hmod u _ hu, State.setBsSt, State.modifyBs_eq (b := { b with tmp := v })]
    · simp
    · simp [hlt]
  unfold bsAct at h
  cases hst : b.st <;> rw [hst] at h <;> simp only at h
  case idle => cases h; exact .same
  all_goals have hb : b.st ≠ .idle := by rw [hst]; simp
  all_goals have hbusy : b.busy = true := by rw [Bs.busy_iff]; exact hb
  case cfgDirA =>
    rw [bsCfgDirA, withDev_busy hbusy] at h
    cases h
    refine bsStep hb (fun r => .dirA r hst) (fun hr => .inr ⟨by rw [hst]; rfl, hr⟩) fun v => ?_
    exact moved hb (.dirA _ hst) (st := .cfgDirB) (tmp := b.tmp) (by rw [hst]; rfl) (by simp)
      (by simp [BsSt.phase]) (hmod _ _ rfl)
  case cfgDirB =>
    rw [bsCfgDirB, withDev_busy hbusy] at h
    cases h
    refine bsStep hb (fun r => .dirB r hst) (fun hr => .inr ⟨by rw [hst]; rfl, hr⟩) fun v => ?_
    exact moved hb (.dirB _ hst) (st := .cfgPuA) (tmp := b.tmp) (by rw [hst]; rfl) (by simp)
      (by simp [BsSt.phase]) (hmod _ _ rfl)
  case cfgPuA =>
    rw [bsCfgPuA, withDev_busy hbusy] at h
    cases h
    refine bsStep hb (fun r => .puA r hst) (fun hr => .inr ⟨by rw [hst]; rfl, hr⟩) fun v => ?_
    exact moved hb (.puA _ hst) (st := .cfgIeA) (tmp := b.tmp) (by rw [hst]; rfl) (by simp)
      (by simp [BsSt.phase]) (hmod _ _ rfl)
  case cfgIeA =>
    rw [bsCfgIeA, withDev_busy hbusy] at h
    cases h
    refine bsStep hb (fun r => .ieA r hst) (fun hr => .inr ⟨by rw [hst]; rfl, hr⟩) fun v => ?_
    exact .done _ hb (.ieA _ hst) (by rw [hst]; simp [BsSt.inWait])
  all_goals have hin : b.st.inWait = true := by rw [hst]; rfl
  case wUnlatch =>
    rw [bsUnlatch, withDev_busy hbusy, Bs.readCap, hin, readIf_true, reading_ok] at h
    cases h
    refine bsStep hb (fun r => .cap r hin (by rw [hst]; rfl)) (fun hr => .inl ⟨by rw [hst]; rfl, hr⟩)
      fun v => ?_
    exact moved hb (.cap _ hin (by rw [hst]; rfl)) (st := .wIoffRd) (tmp := b.tmp) (by rw [hst]; rfl)
      (by simp) (by simp [BsSt.phase]) (hmod _ _ rfl)
  case wIoffRd =>
    rw [bsIoffRd, withDev_busy hbusy, Bs.readInd, hin, readIf_true, reading_ok] at h
    cases h
    refine bsStep hb (fun r => .indRead r hin (by rw [hst]; rfl)) (fun hr => .inl ⟨by rw [hst]; rfl, hr⟩)
      fun v => ?_
    exact moved hb (.indRead _ hin (by rw [hst]; rfl)) (st := .wIoffWr) (tmp := v) (by rw [hst]; rfl)
      (by simp) (by simp [BsSt.phase]) (htwo _ _ _ rfl)
  case wSleep =>
    rw [bsSleep] at h
    cases h
    exact moved hb (.sleep hst) (st := .wPollRd) (tmp := b.tmp) (by rw [hst]; rfl) (by simp)
      (fun _ => .inl (by rw [hst]; rfl)) (hmod _ _ rfl)
  case wPollRd =>
    rw [bsPollRd, withDev_busy hbusy, Bs.readCap, Bs.readMask, hin, readIf_true, readIf_true, reading_ok,
      reading_ok] at h
    cases h
    refine bsStep hb (fun r => .cap r hin (by rw [hst]; rfl)) (fun hr => .inl ⟨by rw [hst]; rfl, hr⟩)
      fun v => ?_
    refine moved hb (.cap _ hin (by rw [hst]; rfl)) (st := if v &&& b.mask ≠ 0x00#8 then .wSleep else .wIonRd)
      (tmp := v) ?_ ?_ (fun _ => .inl (by rw [hst]; rfl)) (htwo _ _ _ rfl)
    · rw [hst]; split <;> rfl
    · split <;> simp
  case wIonRd =>
    rw [bsIonRd, withDev_busy hbusy, Bs.readInd, hin, readIf_true, reading_ok] at h
    cases h
    refine bsStep hb (fun r => .indRead r hin (by rw [hst]; rfl)) (fun hr => .inl ⟨by rw [hst]; rfl, hr⟩)
      fun v => ?_
    exact moved hb (.indRead _ hin (by rw [hst]; rfl)) (st := .wIonWr) (tmp := v) (by rw [hst]; rfl)
      (by simp) (by simp [BsSt.phase]) (htwo _ _ _ rfl)
  all_goals have htmp : b.st.hasTmp = true := by rw [hst]; rfl
  case wIoffWr =>
    rw [bsIoffWr, withDev_busy hbusy, Bs.readInd, Bs.readTmp, Bs.readMask, hin, htmp, readIf_true, readIf_true,
      readIf_true, reading_ok, reading_ok, reading_ok] at h
    cases h
    refine bsStep hb (fun r => .indWrite _ r hin (by rw [hst]; rfl)) (fun hr => .inr ⟨by rw [hst]; rfl, hr⟩)
      fun v => ?_
    exact moved hb (.indWrite _ _ hin (by rw [hst]; rfl)) (st := .wPollRd) (tmp := b.tmp) (by rw [hst]; rfl)
      (by simp) (fun _ => .inr ⟨hst, rfl⟩) (hmod _ _ rfl)
  case wIonWr =>
    rw [bsIonWr, withDev_busy hbusy, Bs.readInd, Bs.readTmp, Bs.readMask, hin, htmp, readIf_true, readIf_true,
      readIf_true, reading_ok, reading_ok, reading_ok] at h
    cases h
    refine bsStep hb (fun r => .indWrite _ r hin (by rw [hst]; rfl)) (fun hr => .inr ⟨by rw [hst]; rfl, hr⟩)
      fun v => ?_
    exact .done _ hb (.indWrite _ _ hin (by rw [hst]; rfl)) fun _ => ⟨hst, rfl⟩

/-! ### A step of the machine -/

/-- exec of an instruction that is a wire frame is the sending of its bytes. -/
theorem exec_of_frame {i : Instr} {bytes : List Byte} (h : encode i = .frame bytes) (s : State) :
    exec i s = sendFrame bytes s := by
  cases i <;> simp only [encode, reduceCtorEq, Code.frame.injEq] at h <;> subst h <;> rfl

/-- Bytes decode only as wire frames. -/
theorem decodeFrame_isFrame {bytes : List Byte} {i : Instr} (h : decodeFrame bytes = .ok i) :
    ∃ bs, encode i = .frame bs := by
  unfold decodeFrame at h
  split at h
  · unfold decodeFrame4 at h
    repeat' split at h
    all_goals cases h
    all_goals exact ⟨_, rfl⟩
  · unfold decodeFrame6 at h
    repeat' split at h
    all_goals cases h
    all_goals exact ⟨_, rfl⟩
  · cases h

/-- No host command word decodes as a wire frame. -/
theorem decodeHcw_notFrame {w : Word} {i : Instr} (h : decodeHcw w = .ok i) (bs : List Byte) :
    encode i ≠ .frame bs := by
  unfold decodeHcw at h
  split at h
  all_goals first
    | (obtain ⟨_, rfl⟩ := Decoded.ifZero_ok h; simp [encode])
    | (cases h; try simp [encode])

/-- FS's turn at its WRITE, whatever its buffer holds, is the SerWrite of the buffer or a refusal. -/
theorem fsTurn_write_next {s t : State} (hw : s.fs.st = .write) (h : fsTurn s = .next t) :
    t = fsWritten s.fs.owner s.fs.buf s := by
  have hb := Fs.busy_of_write hw
  simp only [fsTurn, hw, fsWriteTurn, reading_fsBuf hb] at h
  split at h
  · rename_i i hi
    obtain ⟨bs, he⟩ := decodeFrame_isFrame hi
    rw [exec_of_frame he] at h
    exact (sendFrame_next h).2
  · rw [fsWrite_busy hb] at h
    cases h
    rfl

/-- Everything a step can do, by its move. `u` is the state after the turn is taken. -/
inductive Stepped (s u : State) : State → Prop where
  | issue (c : CallerId) (w : Word) (hm : s.nextTurn.move = .issue c w) : Stepped s u (u.issue c w)
  | noHeld (c : CallerId) (hm : s.nextTurn.move = .accept c)
      (hc : ∀ w, u.caller c ≠ some (.held w)) : Stepped s u u
  | illegal (c : CallerId) (w : Word) (e : DecodeError) (hm : s.nextTurn.move = .accept c)
      (hc : u.caller c = some (.held w)) (hd : decodeHcw w = .bad e) :
      Stepped s u ((u.setIssuer c).raise .illegalCommand)
  | accept (c : CallerId) (w : Word) (i : Instr) (t : State) (hm : s.nextTurn.move = .accept c)
      (hc : u.caller c = some (.held w)) (hd : decodeHcw w = .ok i)
      (he : exec i (u.setIssuer c) = .next t) (ha : Accepted i (u.setIssuer c) t) : Stepped s u t
  | receive (c : CallerId) (hm : s.nextTurn.move = .receive c) : Stepped s u (u.receive c)
  | fsIdle (hm : s.nextTurn.move = .fs) (hs : u.fs.st = .idle) : Stepped s u u
  | fsWrite (hm : s.nextTurn.move = .fs) (hs : u.fs.st = .write) :
      Stepped s u (fsWritten u.fs.owner u.fs.buf u)
  | fsSettle (hm : s.nextTurn.move = .fs) (hs : u.fs.st = .settle) : Stepped s u (fsSettle u)
  | fsDrain (hm : s.nextTurn.move = .fs) (hs : u.fs.st = .drain) :
      Stepped s u (fsDrained u.fs.owner u.fs.attempt u)
  | noBs (j : Nat) (hm : s.nextTurn.move = .bs j) (hj : u.bs[j]? = none) : Stepped s u u
  | bs (j : Nat) (b : Bs) (t : State) (hm : s.nextTurn.move = .bs j) (hj : u.bs[j]? = some b)
      (ht : BsStepped j b u t) : Stepped s u t
  | reset (hm : s.nextTurn.move = .reset) : Stepped s u u.resetEvent

/-- The next states of a step. -/
theorem step_stepped {s t : State} (h : step s = .next t) : Stepped s s.takeTurn t := by
  unfold step at h
  split at h
  case isFalse => cases h
  generalize hm : s.nextTurn.move = m at h
  cases m with
  | issue c w => cases h; exact .issue c w hm
  | receive c => cases h; exact .receive c hm
  | reset => cases h; exact .reset hm
  | accept c =>
    simp only [moveStep, acceptTurn] at h
    split at h
    · rename_i w hc
      split at h
      · rename_i i hd
        exact .accept c w i t hm hc hd h (exec_accepted h)
      · rename_i e hd
        cases h
        exact .illegal c w e hm hc hd
    all_goals
      rename_i hc
      cases h
      refine .noHeld c hm fun w hw => ?_
      rw [hc] at hw
      cases hw
  | fs =>
    simp only [moveStep] at h
    cases hs : s.takeTurn.fs.st with
    | idle =>
      simp only [fsTurn, hs] at h
      cases h
      exact .fsIdle hm hs
    | write =>
      rw [fsTurn_write_next hs h]
      exact .fsWrite hm hs
    | settle =>
      simp only [fsTurn, hs] at h
      cases h
      exact .fsSettle hm hs
    | drain =>
      have hb : s.takeTurn.fs.busy = true := by rw [Fs.busy_iff, hs]; simp
      simp only [fsTurn, hs, fsDrain_busy hb] at h
      cases h
      exact .fsDrain hm hs
  | bs j =>
    simp only [moveStep, bsTurn] at h
    split at h
    · rename_i b hj
      exact .bs j b t hm hj (bsAct_stepped hj h)
    · rename_i hj
      cases h
      exact .noBs j hm hj

end Sys2Proof.Machine
end

