-- ==== Sys2Proof/Tests/Slice0.lean ====
section
/-! SUPPORT. Tests of the model against words and vectors of spec/95_test_vectors.md (L1, L2) and 30_encoding
R71 to R92, and, for each statement with hypotheses, a state and operands that meet them. -/

namespace Sys2Proof.Tests

open Sys2Proof Sys2Proof.Machine

/-! ### Small states -/

/-- Answers that all succeed: a drained ENQ, a byte 0x04 read. -/
def okDraw : Draw := ⟨.ok (), .ok (), .ok [0x05#8], .ok 0x04#8⟩

/-- Answers that all fail. -/
def failDraw : Draw := ⟨.fail, .fail, .fail, .fail⟩

/-- Reset with both links open, slot 0 bound to address 3, and answers that succeed. -/
def ready : State :=
  { State.reset with
    serialOpen := true
    busOpen := true
    slots := State.reset.slots.set 0 ⟨true, 3#14, #v[0#8, 0#8, 0#8]⟩
    draw := okDraw }

/-- The throttle frame of L1-9. -/
def frame0 : List Byte := [0xE4#8, 0x13#8, 0x00#8, 0x03#8, 0xB2#8, 0x46#8]

/-- ready, with FS in state st of the send of frame0 for caller 5. -/
def sending (st : FsSt) : State :=
  { ready with fs := ⟨st, frame0, 0, 5⟩, callers := [(5, .running)] }

/-- A bus sequencer in state st of a command of caller 5 for bank A port 3 of device 0x20. -/
def seq (st : BsSt) : Bs := ⟨st, 0x20#8, 0x10#8, 0x13#8, 0x04#8, 0xFF#8, 5⟩

/-- ready, with BS[0] in state st. -/
def polling (st : BsSt) : State :=
  { ready with bs := [seq st, Bs.reset], callers := [(5, .running)] }

/-- Caller 5's held word w is considered. -/
def consider (w : Word) (s : State) : Result :=
  moveStep (.accept 5) { s with callers := [(5, .held w)] }

/-- f of the next state. -/
def see {α : Type} (f : State → α) (r : Result) : Option α :=
  match r with
  | .next t => some (f t)
  | .fault _ => none
  | .refused _ => none

/-- What is outstanding for caller 5. -/
def five (t : State) : Option CallerSt := t.caller 5

/-- The result word of caller 5's command w. -/
def resultOf (w : Word) (s : State) : Option (Option CallerSt) := see five (consider w s)

/-- A result word that is pending. -/
def got (w : Word) : Option (Option CallerSt) := some (some (.done w))

/-- The events of a next state. -/
def events (t : State) : List Event := t.history.map Entry.event

/-! ### Well-formed instructions and parameters: what each check refuses -/

-- 30 R89: the checksum byte is wrong.
theorem test_wf_throttle_checksum : (Instr.frameThrottle 3#14 .forward 50#7 0x47#8).wellFormed = false := by
  decide

theorem test_wf_function_checksum : (Instr.frameFunction 0x20#8 3#14 0x10#8 0x32#8).wellFormed = false := by
  decide

theorem test_wf_activate_checksum : (Instr.frameActivate 0x0A#8 2#6 0xDC#8).wellFormed = false := by decide

theorem test_wf_deactivate_checksum : (Instr.frameDeactivate 0x0A#8 2#6 0xDD#8).wellFormed = false := by
  decide

-- 00_scope R8(d): a function frame's opcode is neither 0xE4 nor 0x52; the checksums are right.
theorem test_wf_function_opcode_throttle :
    (Instr.frameFunction 0xE4#8 3#14 0x10#8 0xF7#8).wellFormed = false := by decide

theorem test_wf_function_opcode_accessory :
    (Instr.frameFunction 0x52#8 3#14 0x10#8 0x41#8).wellFormed = false := by decide

theorem test_wf_frames_accepted :
    (Instr.frameThrottle 3#14 .forward 50#7 0x46#8).wellFormed = true ∧
    (Instr.frameFunction 0x20#8 3#14 0x10#8 0x33#8).wellFormed = true ∧
    (Instr.frameActivate 0x0A#8 2#6 0xDD#8).wellFormed = true ∧
    (Instr.frameDeactivate 0x0A#8 2#6 0xDC#8).wellFormed = true := by decide

theorem test_params_reference : Config.reference.wellFormed = true := by decide

-- 00_scope R8(c): two rows of group 0 with different opcodes.
theorem test_params_groups :
    { Config.reference with
      funcTable := Config.refFuncTable.set 1 ⟨0, 0x23#8, 0x01#8, 0x01#8⟩ }.wellFormed = false := by decide

-- 00_scope R8(d): the one group-2 opcode is 0x52.
theorem test_params_opcodes :
    { Config.reference with
      funcTable := .replicate 13 ⟨2, 0x52#8, 0x01#8, 0x01#8⟩ }.wellFormed = false := by decide

-- 00_scope R8(e): both banks with the same offsets.
theorem test_params_offsets :
    { Config.reference with offB := Config.reference.offA }.wellFormed = false := by decide

-- R7: NT is at least 1 and at most 256, NP at least 1.
theorem test_params_counts :
    { Config.reference with nt := 0 }.wellFormed = false ∧
    { Config.reference with nt := 257 }.wellFormed = false ∧
    { Config.reference with np := 0 }.wellFormed = false ∧
    { Config.reference with nt := 256, np := 1 }.wellFormed = true := by decide

/-! ### Decoding: words written out from R71 and R86 to R88 -/

theorem test_decode_unit_f :
    decodeHcw 0b00000001_00000000_00000000_00000000#32 = .ok .openSerial ∧
    decodeHcw 0b00000010_00000000_00000000_00000000#32 = .ok .closeSerial ∧
    decodeHcw 0b00000011_00000000_00000000_00000001#32 = .ok (.setDiag .on) ∧
    decodeHcw 0b00010000_00000001_00000100_11010010#32 = .ok (.bindTrain 1#8 1234#16) ∧
    decodeHcw 0b00010001_00000010_00000000_01111111#32 = .ok (.throttle 2#8 .reverse 127#8) ∧
    decodeHcw 0b00010001_00000000_00000001_00110010#32 = .ok (.throttle 0#8 .forward 50#8) ∧
    decodeHcw 0b00010010_00000011_00001100_00000001#32 = .ok (.function 3#8 12#8 .on) ∧
    decodeHcw 0b00010011_00000000_00001010_00000100#32 = .ok (.activate 0x0A#8 0x04#8) ∧
    decodeHcw 0b00010100_00000000_00001010_10000100#32 = .ok (.deactivate 0x0A#8 0x84#8) := by decide

theorem test_decode_unit_s :
    decodeHcw 0b00100000_00000000_00000000_00000000#32 = .ok .openBus ∧
    decodeHcw 0b00100001_00000000_00000000_00000000#32 = .ok .closeBus ∧
    decodeHcw 0b00100010_00000000_00000000_00100111#32 = .ok (.configure 0x27#8) ∧
    decodeHcw 0b00100011_00100000_01000001_00001000#32 = .ok (.makeSensor 0x20#8 0x41#8 8#8) ∧
    decodeHcw 0b00100100_00100000_01000010_00000001#32 = .ok (.wait 0x20#8 0x42#8 1#8) := by decide

-- L2-T, L2-F and L2-A: frames of the vectors, b0 first.
theorem test_decode_frames :
    decodeFrame [0xE4#8, 0x13#8, 0x04#8, 0xD2#8, 0xE4#8, 0xC5#8] =
      .ok (.frameThrottle 1234#14 .forward 100#7 0xC5#8) ∧
    decodeFrame [0xE4#8, 0x13#8, 0x3F#8, 0xFF#8, 0x7F#8, 0x48#8] =
      .ok (.frameThrottle 16383#14 .reverse 127#7 0x48#8) ∧
    decodeFrame [0x22#8, 0x00#8, 0x04#8, 0xD2#8, 0x01#8, 0xF5#8] =
      .ok (.frameFunction 0x22#8 1234#14 0x01#8 0xF5#8) ∧
    decodeFrame [0x52#8, 0x12#8, 0xFF#8, 0xBF#8] = .ok (.frameActivate 0x12#8 63#6 0xBF#8) ∧
    decodeFrame [0x52#8, 0x01#8, 0x80#8, 0xD3#8] = .ok (.frameDeactivate 0x01#8 0#6 0xD3#8) := by decide

-- The same frames as table words.
theorem test_decode_table_frames :
    decodeTableWord 48 0xE41304D2E4C5 = some (.frameThrottle 1234#14 .forward 100#7 0xC5#8) ∧
    decodeTableWord 48 0x220004D201F5 = some (.frameFunction 0x22#8 1234#14 0x01#8 0xF5#8) ∧
    decodeTableWord 32 0x5212FFBF = some (.frameActivate 0x12#8 63#6 0xBF#8) := by decide

-- L2-E, L2-A, L2-B, L2-G and L2-T: illegal words.
theorem test_decode_illegal :
    decodeHcw 0x00000000#32 = .bad .undefinedOp ∧ decodeHcw 0xFF000000#32 = .bad .undefinedOp ∧
    decodeHcw 0x04000000#32 = .bad .undefinedOp ∧ decodeHcw 0x25000000#32 = .bad .undefinedOp ∧
    decodeHcw 0x02000100#32 = .bad .reservedBits ∧ decodeHcw 0x20800000#32 = .bad .reservedBits ∧
    decodeHcw 0x21000001#32 = .bad .reservedBits ∧ decodeHcw 0x12000102#32 = .bad .reservedBits ∧
    decodeHcw 0x14FF0A04#32 = .bad .reservedBits ∧ decodeHcw 0x13010A04#32 = .bad .reservedBits ∧
    decodeHcw 0x22000120#32 = .bad .reservedBits ∧ decodeHcw 0x11000380#32 = .bad .reservedBits := by decide

theorem test_decode_frame_rejects :
    decodeFrame [0x52#8, 0x0A#8, 0x05#8, 0x5D#8] = .bad .frameFixedBits ∧
    decodeFrame [0x51#8, 0x0A#8, 0x85#8, 0xDE#8] = .bad .frameOpcode ∧
    decodeFrame [0xE4#8, 0x12#8, 0x00#8, 0x03#8, 0xB2#8, 0x47#8] = .bad .frameFixedBits ∧
    decodeFrame [0xE4#8, 0x13#8, 0x40#8, 0x03#8, 0xB2#8, 0x06#8] = .bad .frameFixedBits ∧
    decodeFrame [0x20#8, 0x01#8, 0x00#8, 0x03#8, 0x10#8, 0x32#8] = .bad .frameFixedBits ∧
    decodeFrame [0xE4#8, 0x13#8] = .bad .frameLength := by decide

/-! ### The textual syntax (R81) -/

theorem test_assemble_operands :
    assembleWord "THROTTLE t0, 50, FWD    ; the source's call".toList = some 0x11000132#32 ∧
    assembleWord "FUNCTION t0, F12, OFF".toList = some 0x12000C00#32 ∧
    assembleWord "BIND_TRAIN t1, 0x4D2".toList = some 0x100104D2#32 ∧
    assembleWord "ACTIVATE 0x0A, 0x04".toList = some 0x13000A04#32 := by decide

theorem test_assemble_bus :
    assembleWord "WAIT 0x20, B, 8".toList = some 0x24204208#32 ∧
    assembleWord "MAKE_SENSOR 32, A, 3".toList = some 0x23204103#32 ∧
    assembleWord "CONFIGURE 0x20".toList = some 0x22000020#32 ∧
    assembleWord "SET_DIAG on".toList = some 0x03000001#32 ∧ assembleWord "OPEN t0".toList = none := by decide

theorem test_assemble_program :
    assembleProgram "OPEN\nBIND_TRAIN t0, 3 ; bind\n\nTHROTTLE t0, 50, FWD".toList =
      some [0x01000000#32, 0x10000003#32, 0x11000132#32] := by decide

/-! ### Checksums and operands -/

-- L2-C.
theorem test_checksum_vectors :
    frameOf [0xE4#8, 0x13#8, 0x00#8, 0x03#8, 0xB2#8] = frame0 ∧
    frameOf [0x52#8, 0x0A#8, 0x85#8] = [0x52#8, 0x0A#8, 0x85#8, 0xDD#8] ∧
    frameOf [0xFF#8, 0xFF#8, 0xFF#8] = [0xFF#8, 0xFF#8, 0xFF#8, 0xFF#8] ∧
    frameOf [0xFF#8, 0xFF#8] = [0xFF#8, 0xFF#8, 0x00#8] := by decide

-- L1-9.
theorem test_checksum_detects :
    xorFold frame0 = 0x00#8 ∧ xorFold [0xE4#8, 0x13#8, 0x00#8, 0x03#8, 0xB3#8, 0x46#8] = 0x01#8 ∧
    xorFold [0xE4#8, 0x13#8, 0x00#8, 0x02#8, 0xB3#8, 0x46#8] = 0x00#8 ∧
    xorFold [0xE4#8, 0x13#8, 0x03#8, 0x00#8, 0xB2#8, 0x46#8] = 0x00#8 := by decide

-- R91, on the vectors' frames.
theorem test_classify :
    Config.reference.classify frame0 = some .throttle ∧
    Config.reference.classify [0x52#8, 0x0A#8, 0x85#8, 0xDD#8] = some .accessory ∧
    Config.reference.classify [0x21#8, 0x00#8, 0x00#8, 0x03#8, 0x08#8, 0x2A#8] = some (.function 0x21#8) ∧
    Config.reference.classify [0x23#8, 0x00#8, 0x00#8, 0x03#8, 0x08#8, 0x28#8] = none := by decide

/-! ### Unit F, one step each -/

-- L2-B.
theorem test_open :
    resultOf 0x01000000#32 { State.reset with draw := okDraw } = got 0x00000000#32 ∧
    see State.serialOpen (consider 0x01000000#32 { State.reset with draw := okDraw }) = some true ∧
    resultOf 0x01000000#32 { State.reset with draw := failDraw } = got 0x00000001#32 ∧
    see State.serialOpen (consider 0x01000000#32 { State.reset with draw := failDraw }) = some false := by
  decide

theorem test_open_twice :
    resultOf 0x01000000#32 ready = got 0x00000001#32 ∧
    see events (consider 0x01000000#32 ready) = some [] ∧
    see State.serialOpen (consider 0x01000000#32 ready) = some true := by decide

theorem test_close :
    resultOf 0x02000000#32 ready = got 0x00000000#32 ∧
    resultOf 0x02000000#32 { ready with draw := failDraw } = got 0x00000001#32 ∧
    see State.serialOpen (consider 0x02000000#32 { ready with draw := failDraw }) = some false ∧
    resultOf 0x02000000#32 State.reset = got 0x00000001#32 := by decide

theorem test_setDiag :
    see State.diag (consider 0x03000001#32 State.reset) = some true ∧
    resultOf 0x03000001#32 State.reset = got 0x00000000#32 ∧
    resultOf 0x03000002#32 State.reset = got 0x00000005#32 := by decide

theorem test_bindTrain :
    see (fun t => t.slots[0]?) (consider 0x10003FFF#32 State.reset) =
      some (some ⟨true, 0x3FFF#14, #v[0#8, 0#8, 0#8]⟩) ∧
    see (fun t => t.slots[0]?) (consider 0x10000003#32
      { ready with slots := ready.slots.set 0 ⟨true, 3#14, #v[0x10#8, 0#8, 0#8]⟩ }) =
      some (some ⟨true, 3#14, #v[0#8, 0#8, 0#8]⟩) := by decide

theorem test_bindTrain_invalid :
    resultOf 0x10004000#32 State.reset = got 0x00000004#32 ∧
    resultOf 0x10040003#32 State.reset = got 0x00000004#32 ∧
    see State.slots (consider 0x10004000#32 State.reset) = some State.reset.slots := by decide

-- L2-T.
theorem test_throttle :
    see (fun t => t.fs) (consider 0x11000132#32 ready) = some ⟨.write, frame0, 0, 5⟩ ∧
    see (fun t => t.fs.buf) (consider 0x1100007F#32
      { ready with slots := ready.slots.set 0 ⟨true, 16383#14, #v[0#8, 0#8, 0#8]⟩ }) =
      some [0xE4#8, 0x13#8, 0x3F#8, 0xFF#8, 0x7F#8, 0x48#8] := by decide

theorem test_throttle_errors :
    resultOf 0x11000132#32 State.reset = got 0x00000004#32 ∧
    resultOf 0x11000132#32 { ready with serialOpen := false } = got 0x00000001#32 ∧
    resultOf 0x11000180#32 ready = got 0x00000004#32 ∧ resultOf 0x11040132#32 ready = got 0x00000004#32 ∧
    resultOf 0x11000380#32 ready = got 0x00000005#32 := by decide

-- L2-F.
theorem test_function :
    see (fun t => t.fs.buf) (consider 0x12000001#32 ready) =
      some [0x20#8, 0x00#8, 0x00#8, 0x03#8, 0x10#8, 0x33#8] ∧
    see (fun t => t.slots[0]?) (consider 0x12000001#32 ready) =
      some (some ⟨true, 3#14, #v[0x10#8, 0#8, 0#8]⟩) ∧
    see (fun t => t.slots[0]?) (consider 0x12000000#32
      { ready with slots := ready.slots.set 0 ⟨true, 3#14, #v[0x11#8, 0#8, 0#8]⟩ }) =
      some (some ⟨true, 3#14, #v[0x01#8, 0#8, 0#8]⟩) ∧
    see (fun t => t.fs.buf) (consider 0x12000801#32 ready) =
      some [0x21#8, 0x00#8, 0x00#8, 0x03#8, 0x08#8, 0x2A#8] := by decide

theorem test_function_errors :
    resultOf 0x12000D01#32 ready = got 0x00000004#32 ∧ resultOf 0x120000FF#32 ready = got 0x00000005#32 ∧
    resultOf 0x12000001#32 { State.reset with serialOpen := true } = got 0x00000004#32 ∧
    resultOf 0x12000001#32 { ready with serialOpen := false } = got 0x00000001#32 ∧
    see State.slots (consider 0x12000001#32 { ready with serialOpen := false }) = some ready.slots := by decide

-- L2-A.
theorem test_activate :
    see (fun t => t.fs.buf) (consider 0x13000A84#32 ready) = some [0x52#8, 0x0A#8, 0x85#8, 0xDD#8] ∧
    see (fun t => t.fs.buf) (consider 0x1300127E#32 ready) = some [0x52#8, 0x12#8, 0xFF#8, 0xBF#8] ∧
    resultOf 0x13000A04#32 State.reset = got 0x00000001#32 := by decide

theorem test_deactivate :
    see (fun t => t.fs.buf) (consider 0x14000A05#32 ready) = some [0x52#8, 0x0A#8, 0x84#8, 0xDC#8] ∧
    see (fun t => t.fs.buf) (consider 0x1400FFFF#32 ready) = some [0x52#8, 0xFF#8, 0xFE#8, 0x53#8] := by decide

-- L2-X with diag = 1: the frame goes out and is echoed; X6: a failed write closes the link.
theorem test_frameThrottle :
    see events (step { sending .write with diag := true, script := [fsTurnWrite (.ok ())] }) =
      some [.serWrite frame0 (.ok ()), .diagTx frame0] ∧
    see State.serialOpen (step { sending .write with script := [fsTurnWrite .fail] }) = some false ∧
    see five (step { sending .write with script := [fsTurnWrite .fail] }) = got 0x00000001#32 := by decide

theorem test_frameFunction :
    see events (exec (.frameFunction 0x20#8 3#14 0x10#8 0x33#8)
      { ready with fs := ⟨.write, [0x20#8, 0x00#8, 0x00#8, 0x03#8, 0x10#8, 0x33#8], 0, 5⟩ }) =
      some [.serWrite [0x20#8, 0x00#8, 0x00#8, 0x03#8, 0x10#8, 0x33#8] (.ok ())] := by decide

theorem test_frameActivate :
    see events (exec (.frameActivate 0x0A#8 2#6 0xDD#8)
      { ready with fs := ⟨.write, [0x52#8, 0x0A#8, 0x85#8, 0xDD#8], 0, 5⟩ }) =
      some [.serWrite [0x52#8, 0x0A#8, 0x85#8, 0xDD#8] (.ok ())] := by decide

theorem test_frameDeactivate :
    see events (exec (.frameDeactivate 0x0A#8 2#6 0xDC#8)
      { ready with fs := ⟨.write, [0x52#8, 0x0A#8, 0x84#8, 0xDC#8], 0, 5⟩ }) =
      some [.serWrite [0x52#8, 0x0A#8, 0x84#8, 0xDC#8] (.ok ())] := by decide

-- L2-X: X3 with diag = 1, X9's drain, X7, and the attempt that is the fifth (X4).
theorem test_drain_ack :
    see events (step { sending .drain with
      diag := true, script := [fsTurnDrain (.ok [0x00#8, 0x05#8, 0xFF#8])] }) =
      some [.serDrain (.ok [0x00#8, 0x05#8, 0xFF#8]), .diagRx 0x00#8, .diagRx 0x05#8, .diagRx 0xFF#8] ∧
    see five (step { sending .drain with script := [fsTurnDrain (.ok [0x00#8, 0x05#8, 0xFF#8])] }) =
      got 0x00000000#32 := by decide

theorem test_drain_noAck :
    see (fun t => (t.fs.st, t.fs.attempt)) (step { sending .drain with
      script := [fsTurnDrain (.ok [0x15#8, 0x50#8, 0xFA#8, 0x04#8, 0x06#8])] }) = some (.write, 1) ∧
    see five (step { sending .drain with
      fs := ⟨.drain, frame0, 4, 5⟩, script := [fsTurnDrain (.ok [0x06#8])] }) = got 0x00000003#32 ∧
    see State.serialOpen (step { sending .drain with script := [fsTurnDrain .fail] }) = some false := by decide

/-! ### Unit S, one step each -/

-- L2-G.
theorem test_openBus :
    see State.busOpen (consider 0x20000000#32 { State.reset with draw := okDraw }) = some true ∧
    resultOf 0x20000000#32 ready = got 0x00000002#32 ∧
    resultOf 0x20000000#32 { State.reset with draw := failDraw } = got 0x00000002#32 := by decide

theorem test_closeBus :
    resultOf 0x21000000#32 ready = got 0x00000000#32 ∧ resultOf 0x21000000#32 State.reset = got 0x00000002#32 ∧
    see State.busOpen (consider 0x21000000#32 { ready with draw := failDraw }) = some false := by decide

theorem test_configure :
    see (fun t => (t.bs.map Bs.st, t.bs.map Bs.dev)) (consider 0x22000027#32 ready) =
      some ([.cfgDirA, .idle], [0x27#8, 0x00#8]) ∧
    resultOf 0x22000020#32 State.reset = got 0x00000002#32 := by decide

-- L1-8, the third of the four writes; L2-G: a failed write.
theorem test_configure_step :
    see events (step { polling .cfgPuA with script := [bsTurnWrite 0] }) =
      some [.busWrite 0x20#8 0x0C#8 0xFF#8 (.ok ())] ∧
    see five (step { polling .cfgDirB with script := [⟨.bs 0, failDraw⟩] }) = got 0x00000002#32 ∧
    see State.busOpen (step { polling .cfgDirB with script := [⟨.bs 0, failDraw⟩] }) = some false := by decide

-- L1-6 and L2-S.
theorem test_makeSensor :
    resultOf 0x23204101#32 State.reset = got 0x00000100#32 ∧
    resultOf 0x23204103#32 State.reset = got 0x00000400#32 ∧
    resultOf 0x23204208#32 State.reset = got 0x00008000#32 := by decide

theorem test_makeSensor_invalid :
    resultOf 0x23204100#32 State.reset = got 0x00000004#32 ∧
    resultOf 0x23204109#32 State.reset = got 0x00000004#32 ∧
    resultOf 0x23204301#32 State.reset = got 0x00000004#32 ∧
    resultOf 0x23206101#32 State.reset = got 0x00000004#32 := by decide

-- L2-W: the registers of W11 and the errors of W7 to W10.
theorem test_wait :
    see (fun t => t.bs[0]?) (consider 0x24204201#32 ready) =
      some (some ⟨.wUnlatch, 0x20#8, 0x11#8, 0x13#8, 0x01#8, 0x00#8, 5⟩) := by decide

theorem test_wait_errors :
    resultOf 0x24204100#32 ready = got 0x00000004#32 ∧ resultOf 0x24204303#32 ready = got 0x00000004#32 ∧
    resultOf 0x24204103#32 State.reset = got 0x00000002#32 ∧
    resultOf 0x24204109#32 State.reset = got 0x00000004#32 := by decide

-- L2-W: W4's first indicator write is of 0x5A & ~0x04, its last of 0x12 | 0x04.
theorem test_wait_indicator :
    see events (step { polling .wIoffWr with
      bs := [{ seq .wIoffWr with tmp := 0x5A#8 }], script := [bsTurnWrite 0] }) =
      some [.busWrite 0x20#8 0x13#8 0x5A#8 (.ok ())] ∧
    see events (step { polling .wIonWr with
      bs := [{ seq .wIonWr with tmp := 0x12#8 }], script := [bsTurnWrite 0] }) =
      some [.busWrite 0x20#8 0x13#8 0x16#8 (.ok ())] := by decide

-- L2-W: W3's poll of 0x03 sees the bit clear, W4's poll of 0xFF sees it set.
theorem test_wait_poll :
    see (fun t => t.bs.map Bs.st) (step { polling .wPollRd with script := [bsTurnRead 0 0x03#8] }) =
      some [.wIonRd, .idle] ∧
    see (fun t => t.bs.map Bs.st) (step { polling .wPollRd with script := [bsTurnRead 0 0xFF#8] }) =
      some [.wSleep, .idle] ∧
    see events (step { polling .wSleep with script := [bsTurnSleep 0] }) = some [.sleep 1000] := by decide

/-! ### Holding, reset, callers, fetching -/

-- R73: a serial command is held while FS is busy; a second caller's WAIT goes to BS[1].
theorem test_held :
    see five (consider 0x13000A04#32 { sending .settle with fs := ⟨.settle, frame0, 0, 6⟩ }) =
      some (some (.held 0x13000A04#32)) ∧
    see (fun t => t.bs.map Bs.st) (consider 0x24204102#32
      { polling .wPollRd with bs := [{ seq .wPollRd with owner := 6 }, Bs.reset] }) =
      some [.wPollRd, .wUnlatch] := by decide

-- L2-R.
theorem test_reset_event :
    see (fun t => (t.serialOpen, t.busOpen, t.diag, t.fs.st)) (step { sending .drain with
      diag := true, bs := [seq .wSleep, Bs.reset], script := [⟨.reset, okDraw⟩] }) =
      some (false, false, false, .idle) ∧
    see (fun t => (t.callers, events t, t.slots.map Slot.bound)) (step { sending .drain with
      script := [⟨.reset, okDraw⟩] }) = some ([], [], [false, false, false, false]) := by decide

-- R34: issue, and receive.
theorem test_issue_receive :
    see five (moveStep (.issue 5 0x01000000#32) State.reset) = some (some (.held 0x01000000#32)) ∧
    see five (moveStep (.issue 5 0x02000000#32) (sending .write)) = some (some .running) ∧
    see State.results (moveStep (.receive 5) { ready with callers := [(5, .done 0x00000003#32)] }) =
      some [(5, 0x00000003#32)] := by decide

-- The caller table's canonical form: entries go in by rising id, whatever the order of the puts.
theorem test_callers_canonical :
    Callers.put 2 .running (Callers.put 7 .running (Callers.put 4 .running [])) =
      [(2, .running), (4, .running), (7, .running)] ∧
    Callers.wf [(4, .running), (2, .running)] = false ∧
    Callers.erase 4 [(2, .running), (4, .running)] = [(2, .running)] := by decide

-- A parameter set that breaks R8 is rejected.
theorem test_step_params :
    step { State.reset with params := { Config.reference with np := 0 } } = .refused .parametersIllFormed :=
  rfl

-- The instruction placed is the one the next step runs, as the first after reset.
theorem test_fetch_hcw :
    see (fun t => t.slots[0]?) (step (State.reset.withFetchWord 32 0x10000003)) =
      some (some ⟨true, 3#14, #v[0#8, 0#8, 0#8]⟩) ∧
    see (fun t => t.diag) (step (State.reset.withFetchWord 32 0x03000001)) = some true := by decide

-- Two instructions placed take two different free draws (00_scope R15): each placing uses up one number.
theorem test_fetch_draws :
    (State.reset.withFetchWord 32 0x01000000).tick = 1 ∧
    ((State.reset.withFetchWord 32 0x01000000).withFetchWord 48 0xE4130003B246).tick = 2 := by decide

theorem test_fetch_frame :
    (State.reset.withFetchWord 48 0xE4130003B246).fs = ⟨.write, frame0, 0, 0⟩ ∧
    (State.reset.withFetchWord 48 0xE4130003B246).nextTurn.move = .fs := by decide

/-! ### Witnesses: for each statement with hypotheses, values that meet them; one per clause -/

theorem test_witness_DecodeOfEncode :
    (Instr.wait 0xFF#8 0x00#8 0xFF#8).wellFormed = true ∧
    (Instr.frameThrottle 16383#14 .reverse 127#7 0x48#8).wellFormed = true := by decide

theorem test_witness_EncodeOfDecode :
    decode (.hcw 0x24FFFFFF#32) = .ok (.wait 0xFF#8 0xFF#8 0xFF#8) ∧
    decode (.frame [0x52#8, 0xFF#8, 0xFE#8, 0x53#8]) = .ok (.frameDeactivate 0xFF#8 63#6 0x53#8) := by decide

theorem test_witness_IllegalWordAnswered :
    State.caller { sending .write with callers := [(5, .running), (6, .held 0x11000380#32)] } 6 =
      some (.held 0x11000380#32) ∧ inHcwTable 0x11000380#32 = false := by decide

theorem test_witness_AssembledLineDecodes :
    assembleLine "BIND_TRAIN t3, 16383".toList = some (.bindTrain 3#8 16383#16) := by decide

-- Operands at the ends of their fields, decimal and hexadecimal.
theorem test_witness_AssembledForms :
    Asm.slot "t255".toList = some 255#8 ∧ Asm.slot "t0".toList = some 0#8 ∧
    Asm.field 16 "0xFFFF".toList = some 0xFFFF#16 ∧ Asm.field 8 "127".toList = some 127#8 ∧
    Asm.fnNum "F12".toList = some 12#8 ∧ Asm.field 8 "0".toList = some 0#8 := by decide

theorem test_witness_LineTokensAndNumbers :
    Asm.plain "THROTTLE".toList = true ∧ Asm.plain "t0".toList = true ∧ 255 < 2 ^ 8 ∧ 2 ^ 8 ≤ 256 := by decide

theorem test_witness_StepRunsHeldCommand :
    let s := { ready with callers := [(5, .held 0x10000003#32)], script := [⟨.accept 5, okDraw⟩] }
    s.params.wellFormed = true ∧ s.nextTurn.move = .accept 5 ∧ s.caller 5 = some (.held 0x10000003#32) ∧
      decodeHcw 0x10000003#32 = .ok (.bindTrain 0#8 3#16) := by decide

theorem test_witness_StepRunsFrameInBuffer :
    let s := { sending .write with script := [fsTurnWrite (.ok ())] }
    s.params.wellFormed = true ∧ s.nextTurn.move = .fs ∧ s.fs.st = .write ∧
      decodeFrame s.fs.buf = .ok (.frameThrottle 3#14 .forward 50#7 0x46#8) := by decide

-- OPEN, CLOSE, OPEN_BUS and CLOSE_BUS: open; closed with either answer.
theorem test_witness_LifecycleOutcomes :
    (ready.fs.st = .idle ∧ ready.serialOpen = true ∧ ready.draw.life = .ok () ∧
      (∀ b ∈ ready.bs, b.st = .idle) ∧ ready.busOpen = true) ∧
    (let s := { ready with draw := failDraw }
    s.fs.st = .idle ∧ s.serialOpen = true ∧ s.draw.life = .fail ∧ s.busOpen = true ∧
      ∀ b ∈ s.bs, b.st = .idle) ∧
    (let s := { State.reset with draw := okDraw }
    s.fs.st = .idle ∧ s.serialOpen = false ∧ s.draw.life = .ok () ∧ s.busOpen = false) ∧
    (State.reset.fs.st = .idle ∧ State.reset.serialOpen = false ∧ State.reset.draw.life = .fail ∧
      State.reset.busOpen = false) := by decide

theorem test_witness_BindTrainOutcome :
    ((3#8).toNat < State.reset.params.nt ∧ (0x3FFF#16).toNat ≤ 16383) ∧
    State.reset.params.nt ≤ (4#8).toNat ∧ 16383 < (0x4000#16).toNat := by decide

-- THROTTLE and FUNCTION: a bound slot with the operand at its last valid and first invalid value, the link
-- open and closed; an unbound slot; the first slot out of range.
theorem test_witness_ThrottleOutcome :
    (ready.fs.st = .idle ∧ (0#8).toNat < ready.params.nt ∧
      ready.slots[0]? = some ⟨true, 3#14, #v[0#8, 0#8, 0#8]⟩ ∧ (127#8).toNat ≤ 127 ∧ 127 < (128#8).toNat ∧
      ready.serialOpen = true ∧ { ready with serialOpen := false }.serialOpen = false) ∧
    (ready.slots[3]? = some Slot.reset ∧ Slot.reset.bound = false) ∧ ready.params.nt ≤ (4#8).toNat := by decide

theorem test_witness_FunctionOutcome :
    (ready.fs.st = .idle ∧ (0#8).toNat < ready.params.nt ∧
      ready.slots[0]? = some ⟨true, 3#14, #v[0#8, 0#8, 0#8]⟩ ∧ (12#8).toNat < 13 ∧ 12 < (13#8).toNat ∧
      ready.serialOpen = true ∧ { ready with serialOpen := false }.serialOpen = false) ∧
    (ready.slots[3]? = some Slot.reset ∧ Slot.reset.bound = false) ∧ ready.params.nt ≤ (4#8).toNat := by decide

theorem test_witness_AccessoryOutcome :
    (ready.fs.st = .idle ∧ ready.serialOpen = true) ∧ State.reset.fs.st = .idle ∧
      State.reset.serialOpen = false := by decide

theorem test_witness_FramerStepOutcome :
    ((sending .write).fs.st = .write ∧ (sending .settle).fs.st = .settle ∧ (sending .drain).fs.st = .drain) ∧
    ((sending .drain).fs.attempt + 1 < 5 ∧ 5 ≤ { (sending .drain).fs with attempt := 4 }.attempt + 1) ∧
    (okDraw.drain = .ok [0x05#8] ∧ 0x05#8 ∈ [0x05#8] ∧ 0x05#8 ∉ [0x04#8, 0x06#8]) ∧
    okDraw.write = .ok () ∧ Config.noDraw.write = .blocked ∧ Config.noDraw.drain = .blocked ∧
      (fsTurnWrite .fail).draw.write = .fail ∧ (fsTurnDrain .fail).draw.drain = .fail := by decide

theorem test_witness_FrameGoesOut :
    (sending .write).fs.st = .write ∧ (sending .write).draw.write = .ok () ∧
    (sending .write).fs.buf = [0xE4#8, 0x13#8, BitVec.ofNat 8 ((3#14).toNat / 256),
      BitVec.ofNat 8 ((3#14).toNat % 256), BitVec.ofNat 8 ((if Dir.forward = .forward then 128 else 0) +
      (50#7).toNat), 0x46#8] ∧
    [0x22#8, 0x00#8, 0x3F#8, 0xFF#8, 0x01#8, 0xE2#8] = [0x22#8, 0x00#8, BitVec.ofNat 8 ((16383#14).toNat / 256),
      BitVec.ofNat 8 ((16383#14).toNat % 256), 0x01#8, 0xE2#8] ∧
    [0x52#8, 0xFF#8, 0xFF#8, 0x52#8] = [0x52#8, 0xFF#8, BitVec.ofNat 8 (128 + 2 * (63#6).toNat + 1), 0x52#8] ∧
    [0x52#8, 0x00#8, 0x80#8, 0xD2#8] = [0x52#8, 0x00#8, BitVec.ofNat 8 (128 + 2 * (0#6).toNat), 0xD2#8] := by
  decide

theorem test_witness_FrameWriteOtherwise :
    encode (.frameThrottle 3#14 .forward 50#7 0x46#8) = .frame frame0 ∧
    ((sending .write).fs.st = .write ∧ (sending .write).fs.buf = frame0) ∧
    (fsTurnWrite .blocked).draw.write = .blocked ∧ (fsTurnWrite .fail).draw.write = .fail ∧
    (sending .settle).fs.st ≠ .write ∧ { (sending .write).fs with buf := [] }.buf ≠ frame0 := by decide

theorem test_witness_FrameInvariants :
    ∃ t e, (let s := { sending .write with script := [fsTurnWrite (.ok ())] };
      s.Inv ∧ step s = .next t ∧ e ∈ newEvents s t) ∧ e.event = .serWrite frame0 (.ok ()) ∧ frame0.length = 6 :=
  ⟨_, ⟨.fs, .serWrite frame0 (.ok ())⟩, ⟨by decide, rfl, by decide⟩, rfl, rfl⟩

theorem test_witness_FrameInvariants_accessory :
    ∃ t e, (let s := { sending .write with
        fs := ⟨.write, [0x52#8, 0x0A#8, 0x85#8, 0xDD#8], 4, 5⟩, script := [fsTurnWrite .fail] }
      s.Inv ∧ step s = .next t ∧ e ∈ newEvents s t) ∧
      e.event = .serWrite [0x52#8, 0x0A#8, 0x85#8, 0xDD#8] .fail :=
  ⟨_, ⟨.fs, .serWrite [0x52#8, 0x0A#8, 0x85#8, 0xDD#8] .fail⟩, ⟨by decide, rfl, by decide⟩, rfl⟩

theorem test_witness_ChecksumDetection :
    xorFold frame0 = 0x00#8 ∧ (frame0[5]? = some 0x46#8 ∧ 0x47#8 ≠ 0x46#8) ∧
    [0#8, 0#8, 0#8, 1#8, 1#8, 0#8].length = frame0.length ∧
    List.Perm [0xE4#8, 0x13#8, 0x03#8, 0x00#8, 0xB2#8, 0x46#8] frame0 := by decide

theorem test_witness_ReaderTellsFramesApart :
    Config.reference.wellFormed = true ∧
      Config.reference.funcRow 12#8 = some ⟨2, 0x22#8, 0x08#8, 0x08#8⟩ := by decide

theorem test_witness_GroupByteLaw :
    (⟨0, 0x20#8, 0x01#8, 0x01#8⟩ : FuncRow).onMask = 0x01#8 ∧
      (⟨0, 0x20#8, 0x01#8, 0x01#8⟩ : FuncRow).offMask = 0x01#8 := by decide

theorem test_witness_GroupOrder :
    let on : FuncRow × Switch := (⟨0, 0x20#8, 0x01#8, 0x01#8⟩, .on)
    let off : FuncRow × Switch := (⟨0, 0x20#8, 0x02#8, 0x02#8⟩, .off)
    List.Perm [on, off] [off, on] ∧ ∀ x ∈ [on, off], ∀ y ∈ [on, off], x.2 = .on → y.2 = .off →
      x.1.onMask &&& y.1.offMask = 0x00#8 := by decide

-- A bus command's acceptance: BS[1] is the lowest idle, then BS[0]; WAIT's ports at their bounds.
theorem test_witness_BusAcceptance :
    ((polling .wSleep).bs[1]? = some Bs.reset ∧ Bs.reset.st = .idle ∧
      ∀ i < 1, ∀ q ∈ (polling .wSleep).bs[i]?, q.st ≠ .idle) ∧
    (polling .wSleep).busOpen = true ∧ (State.reset.bs[0]? = some Bs.reset ∧ State.reset.busOpen = false) ∧
    (1 ≤ (1#8).toNat ∧ (8#8).toNat ≤ 8 ∧ (0#8).toNat < 1 ∧ 8 < (9#8).toNat) ∧
    0x43#8 ≠ 0x41#8 ∧ 0x43#8 ≠ 0x42#8 := by decide

theorem test_witness_ConfigureSteps :
    ∀ st ∈ [BsSt.cfgDirA, .cfgDirB, .cfgPuA, .cfgIeA],
      (polling st).bs[0]? = some (seq st) ∧ (seq st).st = st ∧ (polling st).busOpen = true ∧
        (polling st).draw.write = .ok () := by decide

theorem test_witness_WaitStepOutcome :
    ∀ st ∈ [BsSt.wUnlatch, .wIoffRd, .wIoffWr, .wPollRd, .wSleep, .wIonRd, .wIonWr],
      (polling st).bs[0]? = some (seq st) ∧ (seq st).st = st ∧ (polling st).busOpen = true ∧
        (polling st).draw.read = .ok 0x04#8 ∧ (polling st).draw.write = .ok () ∧
        0x04#8 &&& (seq st).mask ≠ 0x00#8 ∧ 0xFB#8 &&& (seq st).mask = 0x00#8 := by decide

theorem test_witness_BusStepGuard :
    (∀ st ∈ [BsSt.wUnlatch, .wIoffRd, .wPollRd, .wIonRd], (seq st).st.reads = true) ∧
    (∀ st ∈ [BsSt.cfgDirA, .cfgDirB, .cfgPuA, .cfgIeA, .wIoffWr, .wIonWr], (seq st).st.writes = true) ∧
    { polling .wPollRd with busOpen := false }.busOpen = false ∧ (polling .wPollRd).busOpen = true ∧
    Config.noDraw.read = .blocked ∧ Config.noDraw.write = .blocked ∧ failDraw.read = .fail ∧
      failDraw.write = .fail := by decide

theorem test_witness_HeldWhileBusy :
    (sending .drain).fs.st ≠ .idle ∧ (∀ b ∈ { ready with bs := [seq .wSleep, seq .cfgIeA] }.bs, b.st ≠ .idle) ∧
    ∃ b ∈ (polling .wSleep).bs, b.st ≠ .idle := by decide

theorem test_witness_OneCommandPerCaller :
    (State.reset.callersOk ∧ State.reset.caller 5 = none) ∧
    ((sending .write).callersOk ∧ (sending .write).caller 5 ≠ none ∧
      (sending .write).caller 5 = some .running) ∧
    (let s := { ready with callers := [(2, .running), (5, .done 0x00000400#32)] }
    s.callersOk ∧ s.caller 5 = some (.done 0x00000400#32)) := by decide

theorem test_witness_WellFormedParams :
    Config.reference.wellFormed = true ∧ State.reset.params.wellFormed = true ∧
    { Config.reference with offB := Config.reference.offA }.wellFormed = false := by decide

theorem test_witness_StepKeepsInv :
    ∃ t, (let s := { sending .write with
        bs := [{ seq .wPollRd with owner := 6 }, Bs.reset], callers := [(5, .running), (6, .running)]
        script := [bsTurnRead 0 0x00#8] }
      s.Inv ∧ s.callersOk ∧ step s = .next t) :=
  ⟨_, by decide, by decide, rfl⟩

theorem test_witness_ResultWordsStayLegal :
    ∃ t, (let s := { sending .write with
        callers := [(5, .running), (6, .done 0x00008000#32)], results := [(7, 0x00000005#32)]
        script := [fsTurnWrite .fail] }
      s.resultsOk ∧ step s = .next t) :=
  ⟨_, ⟨by simp; decide, by simp; decide⟩, rfl⟩

theorem test_witness_SlotsChangeOnlyBy :
    ∃ t, (let s := { ready with callers := [(5, .held 0x10030003#32)], script := [⟨.accept 5, okDraw⟩] };
      step s = .next t ∧ t.slots ≠ s.slots) := ⟨_, rfl, by decide⟩

theorem test_witness_FlagsChangeOnlyBy_serial :
    ∃ t u, (let s := { State.reset with callers := [(5, .held 0x01000000#32)], script := [⟨.accept 5, okDraw⟩] };
      step s = .next t ∧ s.serialOpen = false ∧ t.serialOpen = true) ∧
    (let s := { sending .drain with script := [fsTurnDrain .fail] };
      step s = .next u ∧ s.serialOpen = true ∧ u.serialOpen = false) :=
  ⟨_, _, ⟨rfl, rfl, rfl⟩, rfl, rfl, rfl⟩

theorem test_witness_FlagsChangeOnlyBy_bus :
    ∃ t u v, (let s := { State.reset with callers := [(5, .held 0x20000000#32)], script := [⟨.accept 5, okDraw⟩] };
      step s = .next t ∧ s.busOpen = false ∧ t.busOpen = true) ∧
    (let s := { polling .wPollRd with script := [⟨.bs 0, failDraw⟩] };
      step s = .next u ∧ s.busOpen = true ∧ u.busOpen = false) ∧
    (let s := { ready with callers := [(5, .held 0x03000001#32)], script := [⟨.accept 5, okDraw⟩] };
      step s = .next v ∧ v.diag ≠ s.diag) :=
  ⟨_, _, _, ⟨rfl, rfl, rfl⟩, ⟨rfl, rfl, rfl⟩, rfl, by decide⟩

theorem test_witness_DiagIsSideChannel :
    (sending .write).sansEcho =
      { sending .write with diag := true, history := [⟨.fs, .diagTx frame0⟩] }.sansEcho := by decide

theorem test_witness_NoValueRegistersUnseen :
    ready.scrub = { ready with
      fs := { ready.fs with buf := frame0, attempt := 3, owner := 9 }
      slots := ready.slots.set 3 ⟨false, 77#14, #v[1#8, 2#8, 3#8]⟩
      bs := [{ seq .wSleep with st := .idle }, Bs.reset] }.scrub := by decide

theorem test_witness_BusAccessesAllowed :
    ∃ t e, (let s := { polling .wPollRd with script := [bsTurnRead 0 0x04#8] };
      s.Inv ∧ step s = .next t ∧ e ∈ newEvents s t) :=
  ⟨_, ⟨.bs 0, .busRead 0x20#8 0x10#8 (.ok 0x04#8)⟩, by decide, rfl, by decide⟩

theorem test_witness_SequencersMoveThemselves :
    ∃ t u, (let s := { sending .settle with script := [⟨.fs, okDraw⟩] };
      step s = .next t ∧ t.fs ≠ s.fs) ∧
    (let s := { polling .wSleep with script := [bsTurnSleep 0] };
      step s = .next u ∧ u.bs[0]? ≠ s.bs[0]?) := ⟨_, _, ⟨rfl, by decide⟩, rfl, by decide⟩

theorem test_witness_SensorPhases_armed :
    ∃ t q, (let s := { polling .wIoffWr with script := [bsTurnWrite 0] };
      step s = .next t ∧ s.bs[0]? = some (seq .wIoffWr) ∧ t.bs[0]? = some q) ∧
      BsSt.phase .wIoffWr ≠ some .armed ∧ q.st.phase = some .armed :=
  ⟨_, _, ⟨rfl, rfl, rfl⟩, by decide, rfl⟩

theorem test_witness_SensorPhases_triggered :
    ∃ t q, (let s := { polling .wIonWr with script := [bsTurnWrite 0] };
      step s = .next t ∧ s.bs[0]? = some (seq .wIonWr) ∧ t.bs[0]? = some q ∧ s.caller 5 = some .running) ∧
      BsSt.inWait .wIonWr = true ∧ q.st = .idle ∧ t.caller 5 = some (.done 0x00000000#32) :=
  ⟨_, _, ⟨rfl, rfl, rfl, rfl⟩, rfl, rfl, rfl⟩

theorem test_witness_NeverAcknowledgedSend :
    let rxs := [[], [0x04#8], [0x06#8], [0x50#8, 0x15#8], []]
    let s := { sending .write with script := rxs.flatMap attemptTurns ++ [] }
    s.params.wellFormed = true ∧ s.diag = false ∧ s.fs.st = .write ∧ s.fs.attempt = 0 ∧ rxs.length = 5 ∧
      ∀ rx ∈ rxs, 0x05#8 ∉ rx := by decide

theorem test_witness_AcknowledgedSend :
    let rxs := [[], [0x04#8], [0x06#8], []]
    let s := { sending .write with script := (rxs ++ [[0x42#8, 0x05#8]]).flatMap attemptTurns ++ [] }
    s.params.wellFormed = true ∧ s.diag = false ∧ s.fs.st = .write ∧ s.fs.attempt = 0 ∧ rxs.length ≤ 4 ∧
      (∀ rx ∈ rxs, 0x05#8 ∉ rx) ∧ 0x05#8 ∈ [0x42#8, 0x05#8] := by decide

-- A blocked write and a turn of another agent stand among FS's turns; the unused answers are blocked.
theorem test_witness_SendEndsWithinFifteenSteps :
    let s := { sending .write with
      script := [fsTurnWrite .blocked, fsTurnWrite (.ok ()), bsTurnSleep 0, ⟨.fs, Config.noDraw⟩,
        fsTurnDrain (.ok [0x05#8])] ++ List.replicate 12 ⟨.fs, Config.noDraw⟩ }
    s.params.wellFormed = true ∧ s.fs.st = .write ∧ s.fs.attempt = 0 ∧ resetFree 17 s = true ∧
      15 ≤ fsTurnsTaken 17 s := by decide

-- A step that lowers the rank, one that ends the send, and one that is blocked; attempts 0 and 4.
theorem test_witness_FsRankFalls :
    ∃ t u v, (let s := { sending .write with script := [fsTurnWrite (.ok ())] };
      s.fs.st ≠ .idle ∧ s.fs.attempt < 5 ∧ step s = .next t ∧ s.fsUnblocked = true ∧ s.fs.attempt = 0) ∧
    (let s := { sending .drain with fs := ⟨.drain, frame0, 4, 5⟩, script := [fsTurnDrain (.ok [])] };
      s.fs.st ≠ .idle ∧ s.fs.attempt < 5 ∧ step s = .next u ∧ s.fsUnblocked = true) ∧
    (let s := { sending .drain with script := [fsTurnDrain .blocked] };
      s.fs.st ≠ .idle ∧ s.fs.attempt < 5 ∧ step s = .next v ∧ s.fsUnblocked = false ∧
        s.nextTurn.move ≠ .reset) :=
  ⟨_, _, _, ⟨by decide, by decide, rfl, by decide, rfl⟩, ⟨by decide, by decide, rfl, by decide⟩,
    by decide, by decide, rfl, by decide, by decide⟩

theorem test_witness_ConfigureWritesFour :
    let s := { polling .cfgDirA with script := List.replicate 4 (bsTurnWrite 0) ++ [] }
    s.params.wellFormed = true ∧ s.busOpen = true ∧ s.bs[0]? = some (seq .cfgDirA) ∧
      (seq .cfgDirA).st = .cfgDirA := by decide

theorem test_witness_WaitEventShape :
    let s := { polling .wUnlatch with
      script := [bsTurnRead 0 0x04#8, bsTurnRead 0 0xFF#8, bsTurnWrite 0] ++
        [0x04#8, 0x04#8].flatMap (pollTurns 0) ++
        [bsTurnRead 0 0x00#8, bsTurnRead 0 0xFB#8, bsTurnWrite 0] ++ [] }
    s.params.wellFormed = true ∧ s.busOpen = true ∧ s.bs[0]? = some (seq .wUnlatch) ∧
      (∀ v ∈ [0x04#8, 0x04#8], v &&& (seq .wUnlatch).mask ≠ 0x00#8) ∧
      0x00#8 &&& (seq .wUnlatch).mask = 0x00#8 := by decide

-- Already triggered (R159): no poll sees the bit set.
theorem test_witness_WaitEventShape_noPoll :
    let s := { polling .wUnlatch with
      script := [bsTurnRead 0 0xFF#8, bsTurnRead 0 0xFF#8, bsTurnWrite 0] ++ [].flatMap (pollTurns 0) ++
        [bsTurnRead 0 0xFB#8, bsTurnRead 0 0xFB#8, bsTurnWrite 0] ++ [] }
    s.params.wellFormed = true ∧ s.busOpen = true ∧ s.bs[0]? = some (seq .wUnlatch) ∧
      (seq .wUnlatch).st = .wUnlatch ∧ 0xFB#8 &&& (seq .wUnlatch).mask = 0x00#8 := by decide

theorem test_witness_IndicatorUpdateLost :
    let a := { seq .wIoffRd with mask := 0x01#8 }
    let b := { seq .wIoffRd with mask := 0x02#8, owner := 6 }
    let s := { ready with
      bs := [a, b]
      script := [bsTurnRead 0 0xFF#8, bsTurnRead 1 0xFF#8, bsTurnWrite 0, bsTurnWrite 1] ++ [] }
    s.params.wellFormed = true ∧ s.busOpen = true ∧ 0 ≠ 1 ∧ s.bs[0]? = some a ∧ s.bs[1]? = some b ∧
      a.dev = b.dev ∧ a.ind = b.ind ∧ a.mask &&& b.mask = 0x00#8 := by decide

end Sys2Proof.Tests
end

section
/-! PROOFS. What one step does to the history (00_scope R5, R14; 40_command_protocol R121): it leaves it, or
appends one event and the diagnostic events that echo it. -/

namespace Sys2Proof.Machine

/-- How the history of t continues that of s: it is the same, or one event that is no diagnostic event is
appended, with its diagnostic echo after it, which is empty while diag is 0. -/
inductive AppendsAtMostOne (s t : State) : Prop where
  | same (h : t.history = s.history)
  | event (a : Agent) (e : Event) (echo : List Entry) (he : e.isDiag = false)
      (hx : ∀ x ∈ echo, x.event.isDiag = true) (hd : s.diag = false → echo = [])
      (h : t.history = s.history ++ ⟨a, e⟩ :: echo)

namespace AppendsAtMostOne

/-- An event logged without an echo. -/
theorem of_log {s t : State} (a : Agent) (e : Event) (he : e.isDiag = false)
    (h : t.history = (s.log a e).history) : AppendsAtMostOne s t :=
  .event a e [] he (by simp) (fun _ => rfl) h

/-- An event logged with its echo, which is written when diagnostics are on (R121). -/
theorem of_log_echo {s t : State} (a : Agent) (e : Event) (echo : List Entry) (he : e.isDiag = false)
    (hx : ∀ x ∈ echo, x.event.isDiag = true)
    (h : t.history = (s.log a e).history ++ if s.diag then echo else []) : AppendsAtMostOne s t := by
  refine .event a e (if s.diag then echo else []) he ?_ (fun hd => by simp [hd]) (by simpa using h)
  cases s.diag with
  | true => exact hx
  | false => simp

/-- Only the history and diag of the first state matter. -/
theorem of_eq {s u t : State} (hh : u.history = s.history) (hd : u.diag = s.diag)
    (h : AppendsAtMostOne u t) : AppendsAtMostOne s t := by
  cases h with
  | same h => exact .same (h.trans hh)
  | event a e echo he hx he' h => exact .event a e echo he hx (hd ▸ he') (hh ▸ h)

end AppendsAtMostOne

/-! ### FS -/

/-- A SerWrite appends itself and the DiagTx that echoes it (R121). -/
theorem fsWritten_appendsAtMostOne (owner : CallerId) (buf : List Byte) (s : State) :
    AppendsAtMostOne s (fsWritten owner buf s) := by
  rcases fsWritten_cases owner buf s with ⟨_, h⟩ | ⟨_, h⟩ | ⟨_, h⟩ <;> rw [h]
  · exact .same rfl
  · exact .of_log .fs (.serWrite buf .fail) rfl rfl
  · refine .of_log_echo .fs (.serWrite buf (.ok ())) [⟨.fs, .diagTx buf⟩] rfl ?_ (State.echoTx_history buf _)
    simp [Event.isDiag]

@[simp] theorem fsAttemptDone_history (owner : CallerId) (n : Nat) (rx : List Byte) (s : State) :
    (fsAttemptDone owner n rx s).history = s.history := by
  rcases fsAttemptDone_cases owner n rx s with ⟨_, h⟩ | ⟨_, _, h⟩ | ⟨_, _, h⟩ <;> simp [h]

/-- A SerDrain appends itself and one DiagRx per drained byte (R121). -/
theorem fsDrained_appendsAtMostOne (owner : CallerId) (n : Nat) (s : State) :
    AppendsAtMostOne s (fsDrained owner n s) := by
  rcases fsDrained_cases owner n s with ⟨_, h⟩ | ⟨_, h⟩ | ⟨rx, _, h⟩ <;> rw [h]
  · exact .same rfl
  · exact .of_log .fs (.serDrain .fail) rfl rfl
  · refine .of_log_echo .fs (.serDrain (.ok rx)) (rx.map fun b => ⟨.fs, .diagRx b⟩) rfl ?_ ?_
    · simp [Event.isDiag]
    · rw [fsAttemptDone_history]
      exact State.echoRx_history rx _

/-! ### Acceptance, the bus sequencers, the whole step -/

/-- An acceptance step appends at most a lifecycle event, or is the WRITE of a frame. -/
theorem Accepted.appendsAtMostOne {i : Instr} {s t : State} (h : Accepted i s t) :
    AppendsAtMostOne s t := by
  cases h with
  | serial e v k _ he => exact .of_log _ e he rfl
  | bus e v k he => exact .of_log _ e he rfl
  | frame bytes => exact fsWritten_appendsAtMostOne _ _ s
  | held | answered | diag | bind | send | sendFn | onBs => exact .same rfl

/-- No bus sequencer appends a diagnostic event. -/
theorem BsEvent.isDiag_eq_false {p : Params} {b : Bs} {e : Event} (h : BsEvent p b e) :
    e.isDiag = false := by
  cases h <;> rfl

/-- A bus sequencer's step appends at most the one transaction of its state. -/
theorem BsStepped.appendsAtMostOne {j : Nat} {b : Bs} {s t : State} (h : BsStepped j b s t) :
    AppendsAtMostOne s t := by
  cases h with
  | same | lost => exact .same rfl
  | failed e _ _ he => exact .of_log (.bs j) e he.isDiag_eq_false rfl
  | moved e _ _ _ he => exact .of_log (.bs j) e he.isDiag_eq_false rfl
  | done e _ he => exact .of_log (.bs j) e he.isDiag_eq_false rfl

@[simp] theorem State.issue_history (c : CallerId) (w : Word) (s : State) :
    (s.issue c w).history = s.history := by
  rcases State.issue_cases c w s with ⟨_, h⟩ | ⟨_, h⟩ <;> simp [h]

@[simp] theorem State.receive_history (c : CallerId) (s : State) :
    (s.receive c).history = s.history := by
  rcases State.receive_cases c s with ⟨_, _, h⟩ | ⟨_, h⟩ <;> simp [h]

/-- What each move does to the history of the state u in which it runs. -/
theorem Stepped.appendsAtMostOne {s u t : State} (h : Stepped s u t) : AppendsAtMostOne u t := by
  cases h with
  | issue c w => exact .same (State.issue_history c w u)
  | receive c => exact .same (State.receive_history c u)
  | accept c _ _ _ _ _ _ _ ha => exact .of_eq (u := u.setIssuer c) rfl rfl ha.appendsAtMostOne
  | fsWrite => exact fsWritten_appendsAtMostOne _ _ u
  | fsSettle => exact .of_log .fs (.settle settleMs) rfl rfl
  | fsDrain => exact fsDrained_appendsAtMostOne _ _ u
  | bs j b _ _ _ ht => exact ht.appendsAtMostOne
  | noHeld | illegal | fsIdle | noBs | reset => exact .same rfl

/-- A step appends nothing, or one event and its diagnostic echo (R5, R14). -/
theorem step_appendsAtMostOne {s t : State} (h : step s = .next t) : AppendsAtMostOne s t :=
  (step_stepped h).appendsAtMostOne.of_eq s.takeTurn_history s.takeTurn_diag

/-- Settles O47: what a step appends is one event and its echo; the echo is diagnostic events alone, and empty
while diag is 0. -/
theorem oneTransactionPerStep : Obligations.OneTransactionPerStep := by
  intro s t hstep
  cases step_appendsAtMostOne hstep with
  | same h => exact ⟨[], by simp [h], by simp, by simp⟩
  | event a e echo he hx hd h =>
    have echo_filtered : (echo.filter fun x => !x.event.isDiag) = [] := by
      simpa [List.filter_eq_nil_iff] using hx
    refine ⟨⟨a, e⟩ :: echo, h, ?_, fun hdiag => ?_⟩
    · simp [he, echo_filtered]
    · simp [hd hdiag, he]

end Sys2Proof.Machine
end

section
/-! PROOFS. The caller table (10_state R34): issue, receive, its canonical form under every step; and the state
after reset (R38, 70_reset R230). -/

namespace Sys2Proof.Machine

/-! ### Issue and receive -/

/-- Settles O34: the four cases of an issue and of a receive, each by what it does to the caller table. -/
theorem oneCommandPerCaller : Obligations.OneCommandPerCaller := by
  intro s c w hs
  refine ⟨fun hc => ?_, fun hc => ?_, fun r hc => ?_, fun hc => ?_⟩
  · have issued : s.issue c w = s.setCaller c (.held w) := by simp [State.issue, hc]
    refine ⟨_, congrArg Host.Outcome.next issued, by simp, fun d hd => by simp [hd], rfl⟩
  · have unchanged : s.issue c w = s := by
      rcases State.issue_cases c w s with ⟨hn, _⟩ | ⟨_, h⟩
      · exact absurd hn hc
      · exact h
    exact congrArg Host.Outcome.next unchanged
  · have received : s.receive c = { s.clearCaller c with results := s.results ++ [(c, r)] } := by
      simp [State.receive, hc]
    exact ⟨_, congrArg Host.Outcome.next received, State.caller_clearCaller_self hs c,
      fun d hd => State.caller_clearCaller_ne hd s, rfl⟩
  · have unchanged : s.receive c = s := by
      rcases State.receive_cases c s with ⟨r, hr, _⟩ | ⟨_, h⟩
      · exact absurd hr (hc r)
      · exact h
    exact congrArg Host.Outcome.next unchanged

/-! ### The canonical form -/

/-- What an operation does to the caller table: nothing, or one put, one erase, or the reset. -/
inductive CallersMoved (t u : List (CallerId × CallerSt)) : Prop where
  | same (h : u = t)
  | put (c : CallerId) (v : CallerSt) (h : u = Callers.put c v t)
  | erase (c : CallerId) (h : u = Callers.erase c t)
  | reset (h : u = [])

theorem CallersMoved.wf {t u : List (CallerId × CallerSt)} (h : CallersMoved t u) (ht : Callers.wf t = true) :
    Callers.wf u = true := by
  cases h with
  | same h => rwa [h]
  | put c v h => exact h ▸ Callers.wf_put ht c v
  | erase c h => exact h ▸ Callers.wf_erase ht c
  | reset h => rw [h]; rfl

theorem fsWritten_callersMoved (owner : CallerId) (buf : List Byte) (s : State) :
    CallersMoved s.callers (fsWritten owner buf s).callers := by
  rcases fsWritten_cases owner buf s with ⟨_, h⟩ | ⟨_, h⟩ | ⟨_, h⟩ <;> rw [h]
  · exact .same rfl
  · exact .put owner _ rfl
  · exact .same (by simp)

theorem fsDrained_callersMoved (owner : CallerId) (n : Nat) (s : State) :
    CallersMoved s.callers (fsDrained owner n s).callers := by
  rcases fsDrained_cases owner n s with ⟨_, h⟩ | ⟨_, h⟩ | ⟨rx, _, h⟩ <;> rw [h]
  · exact .same rfl
  · exact .put owner _ rfl
  · rcases fsAttemptDone_cases owner n rx ((s.log .fs (.serDrain (.ok rx))).echoRx rx) with
      ⟨_, h⟩ | ⟨_, _, h⟩ | ⟨_, _, h⟩ <;> rw [h]
    · exact .put owner (.done (hrw .ok 0#8)) (by simp)
    · exact .same (by simp)
    · exact .put owner (.done (hrw .protocolError 0#8)) (by simp)

theorem Accepted.callersMoved {i : Instr} {s t : State} (h : Accepted i s t) :
    CallersMoved s.callers t.callers := by
  cases h with
  | held => exact .same rfl
  | frame => exact fsWritten_callersMoved _ _ s
  | answered | serial | bus | diag | bind | send | sendFn | onBs => exact .put s.issuer _ rfl

theorem BsStepped.callersMoved {j : Nat} {b : Bs} {s t : State} (h : BsStepped j b s t) :
    CallersMoved s.callers t.callers := by
  cases h with
  | same | moved => exact .same rfl
  | lost | failed | done => exact .put b.owner _ rfl

theorem Stepped.callersMoved {s u t : State} (h : Stepped s u t) :
    CallersMoved u.callers t.callers := by
  cases h with
  | issue c w =>
    rcases State.issue_cases c w u with ⟨_, h⟩ | ⟨_, h⟩ <;> rw [h]
    · exact .put c _ rfl
    · exact .same rfl
  | receive c =>
    rcases State.receive_cases c u with ⟨r, _, h⟩ | ⟨_, h⟩ <;> rw [h]
    · exact .erase c rfl
    · exact .same rfl
  | accept c w i t _ _ _ _ ha => exact ha.callersMoved
  | bs j b t _ _ ht => exact ht.callersMoved
  | fsWrite => exact fsWritten_callersMoved _ _ u
  | fsDrain => exact fsDrained_callersMoved _ _ u
  | illegal c => exact .put c _ rfl
  | reset => exact .reset rfl
  | noHeld | fsIdle | fsSettle | noBs => exact .same rfl

/-- Settles O40: a step puts or erases one entry, which keeps the canonical form, or empties the table. -/
theorem stepKeepsCallerTable : Obligations.StepKeepsCallerTable := by
  intro s t hs hstep
  have taken : s.takeTurn.callersOk := by simpa [State.callersOk] using hs
  exact (step_stepped hstep).callersMoved.wf taken

/-! ### The state after reset -/

/-- Settles O35: each slot and sequencer after reset is a copy of one unbound slot and one idle sequencer, whose
readers fault. -/
theorem resetState : Obligations.ResetState := by
  intro p
  refine ⟨rfl, rfl, rfl, List.length_replicate, fun sl hsl => ?_, rfl, rfl, rfl, rfl, List.length_replicate,
    fun b hb => ?_, fun c => rfl⟩
  · obtain rfl := List.eq_of_mem_replicate hsl
    exact ⟨rfl, rfl, fun g => rfl⟩
  · obtain rfl := List.eq_of_mem_replicate hb
    exact ⟨rfl, rfl, rfl, rfl, rfl, rfl, rfl⟩

theorem State.owners_resetWith (p : Params) : (State.resetWith p).owners = [] := by
  simp [State.owners, State.resetWith, Fs.reset, Fs.busy, Bs.reset, Bs.busy]

/-- Settles O38: nothing is busy and nothing runs, so only the lengths of the register files are left to say. -/
theorem invAtReset : Obligations.InvAtReset := by
  intro p hp
  have owners_ok : (State.resetWith p).ownersOk := by
    rw [State.ownersOk, State.owners_resetWith]
    simp [State.resetWith]
  have framer_ok : (State.resetWith p).framerOk := by
    simp [State.framerOk, State.resetWith, Fs.reset, Fs.busy]
  have waits_ok : (State.resetWith p).waitsOk := by
    intro b hb
    obtain rfl := List.eq_of_mem_replicate hb
    simp [Bs.reset, BsSt.inWait]
  exact ⟨⟨hp, List.length_replicate, List.length_replicate⟩, State.reset_callers_wf p, owners_ok, framer_ok,
    waits_ok⟩

end Sys2Proof.Machine
end

section
/-! PROOFS. The invariant of the machine (State.Inv): one rule for each operation a step is made of, and from these
that every step keeps it. A rule for a state also serves for that state with more logged or another issuer, of
which the invariant says nothing. -/

namespace Sys2Proof.Machine

/-! ### The owners of busy sequencers -/

/-- The owners of the busy sequencers of a register file. -/
def busyOwners (l : List Bs) : List CallerId := (l.filter Bs.busy).map Bs.owner

theorem State.owners_eq (s : State) :
    s.owners = (if s.fs.busy then [s.fs.owner] else []) ++ busyOwners s.bs := rfl

theorem busyOwners_perm {l m : List Bs} (h : l.Perm m) : (busyOwners l).Perm (busyOwners m) :=
  (h.filter _).map _

/-- A file with one sequencer taken out and put in front. -/
theorem cons_eraseIdx_perm {l : List Bs} {j : Nat} {b : Bs} (hj : l[j]? = some b) :
    l.Perm (b :: l.eraseIdx j) := by
  obtain ⟨hlt, rfl⟩ := List.getElem?_eq_some_iff.1 hj
  exact (List.getElem_cons_eraseIdx_perm hlt).symm

theorem set_perm_cons_eraseIdx {l : List Bs} {j : Nat} {b : Bs} (hj : l[j]? = some b) (new : Bs) :
    (l.set j new).Perm (new :: l.eraseIdx j) := by
  obtain ⟨hlt, _⟩ := List.getElem?_eq_some_iff.1 hj
  exact List.set_perm_cons_eraseIdx hlt new

/-- A busy sequencer set to idle takes its owner out. -/
theorem busyOwners_set_idle {l : List Bs} {j : Nat} {b new : Bs} (hj : l[j]? = some b) (hb : b.busy = true)
    (hn : new.busy = false) : (busyOwners l).Perm (b.owner :: busyOwners (l.set j new)) := by
  refine (busyOwners_perm (cons_eraseIdx_perm hj)).trans
    (.trans (.of_eq ?_) ((busyOwners_perm (set_perm_cons_eraseIdx hj new)).symm.cons _))
  simp [busyOwners, hb, hn]

/-- An idle sequencer set busy puts its owner in. -/
theorem busyOwners_set_busy {l : List Bs} {j : Nat} {b new : Bs} (hj : l[j]? = some b) (hb : b.busy = false)
    (hn : new.busy = true) : (busyOwners (l.set j new)).Perm (new.owner :: busyOwners l) := by
  refine (busyOwners_perm (set_perm_cons_eraseIdx hj new)).trans
    (.trans (.of_eq ?_) ((busyOwners_perm (cons_eraseIdx_perm hj)).symm.cons _))
  simp [busyOwners, hb, hn]

/-- A busy sequencer that stays busy for its owner changes no owner. -/
theorem busyOwners_set_same {l : List Bs} {j : Nat} {b new : Bs} (hj : l[j]? = some b) (hb : b.busy = true)
    (hn : new.busy = true) (ho : new.owner = b.owner) : (busyOwners (l.set j new)).Perm (busyOwners l) := by
  refine (busyOwners_perm (set_perm_cons_eraseIdx hj new)).trans
    (.trans (.of_eq ?_) (busyOwners_perm (cons_eraseIdx_perm hj)).symm)
  simp [busyOwners, hb, hn, ho]

/-- With a canonical table, exactly the owners run. -/
theorem State.ownersOk_iff {s : State} (hs : s.callersOk) :
    s.ownersOk ↔ s.owners.Nodup ∧ ∀ c, c ∈ s.owners ↔ s.caller c = some .running := by
  refine and_congr_right fun _ => ⟨fun ⟨hrun, hown⟩ c => ?_, fun h => ⟨fun c => (h c).1, ?_⟩⟩
  · exact ⟨hrun c, fun hc => hown _ (Callers.mem_of_get hc) rfl⟩
  · rintro ⟨c, v⟩ hmem rfl
    exact (h c).2 (Callers.get_of_mem hs hmem)

/-- Nobody starts or stops owning a sequencer, and nobody's command starts or stops running. -/
theorem State.ownersOk_keep {s t : State} (hs : s.callersOk) (ht : t.callersOk) (h : s.ownersOk)
    (ho : t.owners.Perm s.owners) (hc : ∀ c, t.caller c = some .running ↔ s.caller c = some .running) :
    t.ownersOk := by
  obtain ⟨hnodup, hown⟩ := (State.ownersOk_iff hs).1 h
  exact (State.ownersOk_iff ht).2 ⟨ho.nodup_iff.2 hnodup, fun c => by rw [ho.mem_iff, hown, hc]⟩

/-- A caller whose command did not run becomes an owner, and runs. -/
theorem State.ownersOk_start {s t : State} (hs : s.callersOk) (ht : t.callersOk) (h : s.ownersOk) {c : CallerId}
    (hc : s.caller c ≠ some .running) (ho : t.owners.Perm (c :: s.owners))
    (hcallers : t.callers = Callers.put c .running s.callers) : t.ownersOk := by
  obtain ⟨hnodup, hown⟩ := (State.ownersOk_iff hs).1 h
  refine (State.ownersOk_iff ht).2 ⟨ho.nodup_iff.2 (List.nodup_cons.2 ⟨by rwa [hown], hnodup⟩), fun d => ?_⟩
  rw [ho.mem_iff, List.mem_cons, hown, State.caller, State.caller, hcallers, Callers.get_put]
  split <;> simp_all

/-- An owner is one no longer, and gets its result. -/
theorem State.ownersOk_finish {s t : State} (hs : s.callersOk) (ht : t.callersOk) (h : s.ownersOk) {c : CallerId}
    {r : Word} (ho : s.owners.Perm (c :: t.owners)) (hcallers : t.callers = Callers.put c (.done r) s.callers) :
    t.ownersOk := by
  obtain ⟨hnodup, hown⟩ := (State.ownersOk_iff hs).1 h
  obtain ⟨hnot, hnodup⟩ := List.nodup_cons.1 (ho.nodup_iff.1 hnodup)
  refine (State.ownersOk_iff ht).2 ⟨hnodup, fun d => ?_⟩
  have hd := hown d
  rw [ho.mem_iff, List.mem_cons] at hd
  rw [State.caller, hcallers, Callers.get_put, ← State.caller]
  by_cases hdc : d = c
  · simp [hdc, hnot]
  · simpa [hdc] using hd

/-! ### The rules -/

theorem State.framerOk_of_idle {s : State} (h : s.fs.st = .idle) : s.framerOk := by
  intro hb
  exact absurd h ((Fs.busy_iff _).1 hb)

/-- A sequencer's registers are replaced by ones that keep what a WAIT holds. -/
theorem State.waitsOk_set {s t : State} (h : s.waitsOk) {j : Nat} {new : Bs} (hp : t.params = s.params)
    (ht : t.bs = s.bs.set j new)
    (hn : new.st.inWait = true → new.mask ∈ portMasks ∧ new.ind = s.params.regOff .b .data ∧
      (new.cap = s.params.regOff .a .cap ∨ new.cap = s.params.regOff .b .cap)) : t.waitsOk := by
  intro q hq
  rw [ht] at hq
  rw [hp]
  rcases List.mem_or_eq_of_mem_set hq with hq | rfl
  · exact h q hq
  · exact hn

theorem State.Inv.wellFormed {s : State} (h : s.Inv) : s.params.wellFormed = true := by
  obtain ⟨⟨hp, _⟩, _⟩ := h
  exact hp

theorem State.Inv.attempt_lt {s : State} (h : s.Inv) (hb : s.fs.busy = true) : s.fs.attempt < maxAttempts := by
  obtain ⟨_, _, _, hframer, _⟩ := h
  obtain ⟨_, hlt, _⟩ := hframer hb
  exact hlt

theorem State.Inv.takeTurn {s : State} (h : s.Inv) : s.takeTurn.Inv := by
  unfold State.takeTurn
  split <;> exact h

theorem State.Inv.echoTx {s : State} (h : s.Inv) (bytes : List Byte) : (s.echoTx bytes).Inv := by
  unfold State.echoTx
  split <;> exact h

theorem State.Inv.echoRx {s : State} (h : s.Inv) (rx : List Byte) : (s.echoRx rx).Inv := by
  unfold State.echoRx
  split <;> exact h

/-- A caller whose command does not run holds a command, or has its result. -/
theorem State.Inv.setCaller {s : State} (h : s.Inv) {c : CallerId} {v : CallerSt}
    (hc : s.caller c ≠ some .running) (hv : v ≠ .running) : (s.setCaller c v).Inv := by
  obtain ⟨hshape, hcallers, howners, hframer, hwaits⟩ := h
  have callers_ok := Callers.wf_put hcallers c v
  refine ⟨hshape, callers_ok, State.ownersOk_keep hcallers callers_ok howners (.refl _) fun d => ?_,
    hframer, hwaits⟩
  rw [State.caller_setCaller]
  split <;> simp_all

/-- A caller takes its result. -/
theorem State.Inv.receive {s : State} (h : s.Inv) (c : CallerId) : (s.receive c).Inv := by
  obtain ⟨hshape, hcallers, howners, hframer, hwaits⟩ := h
  rcases State.receive_cases c s with ⟨r, hr, ht⟩ | ⟨_, ht⟩ <;> rw [ht]
  · have callers_ok := Callers.wf_erase hcallers c
    refine ⟨hshape, callers_ok, State.ownersOk_keep hcallers callers_ok howners (.refl _) fun d => ?_,
      hframer, hwaits⟩
    show (s.clearCaller c).caller d = _ ↔ _
    by_cases hd : d = c
    · rw [hd, State.caller_clearCaller_self hcallers, hr]
      simp
    · rw [State.caller_clearCaller_ne hd]
  · exact ⟨hshape, hcallers, howners, hframer, hwaits⟩

theorem State.Inv.issue {s : State} (h : s.Inv) (c : CallerId) (w : Word) : (s.issue c w).Inv := by
  rcases State.issue_cases c w s with ⟨hc, ht⟩ | ⟨_, ht⟩ <;> rw [ht]
  · exact h.setCaller (by simp [hc]) (by simp)
  · exact h

theorem State.Inv.setSlot {s : State} (h : s.Inv) (i : Nat) (sl : Slot) : (s.setSlot i sl).Inv := by
  obtain ⟨⟨hp, hslots, hbs⟩, hrest⟩ := h
  exact ⟨⟨hp, List.length_set.trans hslots, hbs⟩, hrest⟩

/-- While FS is idle the link may open and close. -/
theorem State.Inv.setSerialOpen {s : State} (h : s.Inv) (hi : s.fs.st = .idle) (v : Bool) :
    (s.setSerialOpen v).Inv := by
  obtain ⟨hshape, hcallers, howners, _, hwaits⟩ := h
  exact ⟨hshape, hcallers, howners, State.framerOk_of_idle hi, hwaits⟩

/-- A send starts on the idle FS (R124). -/
theorem State.Inv.startTx {s : State} (h : s.Inv) (hc : s.caller s.issuer ≠ some .running)
    (hi : s.fs.st = .idle) (ho : s.serialOpen = true) {body : List Byte}
    (hb : s.params.wellFormed = true → blockFrame s.params (frameOf body) = true) : (startTx body s).Inv := by
  obtain ⟨hshape, hcallers, howners, _, hwaits⟩ := h
  have callers_ok := Callers.wf_put hcallers s.issuer .running
  have owners_cons : (Machine.startTx body s).owners = s.issuer :: s.owners := by
    simp [State.owners, Fs.busy, hi]
  exact ⟨hshape, callers_ok, State.ownersOk_start hcallers callers_ok howners hc (.of_eq owners_cons) rfl,
    fun _ => ⟨ho, Nat.succ_pos 4, hb hshape.1⟩, hwaits⟩

/-- FS goes on with its send, at the same frame for the same owner (R120). -/
theorem State.Inv.setFsBusy {s : State} (h : s.Inv) (hb : s.fs.busy = true) {st : FsSt} {n : Nat}
    (hst : st ≠ .idle) (hn : n < maxAttempts) : (s.setFs { s.fs with st := st, attempt := n }).Inv := by
  obtain ⟨hshape, hcallers, howners, hframer, hwaits⟩ := h
  obtain ⟨hopen, _, hframe⟩ := hframer hb
  have owners_same : (s.setFs { s.fs with st := st, attempt := n }).owners = s.owners := by
    simp [State.owners, Fs.busy, (Fs.busy_iff _).1 hb, hst]
  exact ⟨hshape, hcallers,
    State.ownersOk_keep hcallers hcallers howners (.of_eq owners_same) fun _ => .rfl,
    fun _ => ⟨hopen, hn, hframe⟩, hwaits⟩

/-- FS ends its command, after a last count of attempts or a close of the link (R120). -/
theorem State.Inv.finishFs {s : State} (h : s.Inv) (hb : s.fs.busy = true) (link : Bool) (n : Nat)
    (code : ResultCode) :
    (((s.setSerialOpen link).setFs { s.fs with attempt := n }).finishFs s.fs.owner code).Inv := by
  obtain ⟨hshape, hcallers, howners, _, hwaits⟩ := h
  have callers_ok := Callers.wf_put hcallers s.fs.owner (.done (hrw code 0#8))
  refine ⟨hshape, callers_ok, State.ownersOk_finish hcallers callers_ok howners (.of_eq ?_) rfl,
    State.framerOk_of_idle rfl, hwaits⟩
  simp [State.owners, Fs.busy, (Fs.busy_iff _).1 hb]

/-- A bus command starts on an idle sequencer (R145, R150). -/
theorem State.Inv.startBs {s : State} (h : s.Inv) (hc : s.caller s.issuer ≠ some .running) {j : Nat} {b new : Bs}
    (hj : s.bs[j]? = some b) (hi : b.st = .idle) (hn : new.st ≠ .idle) (ho : new.owner = s.issuer)
    (hw : new.st.inWait = true → new.mask ∈ portMasks ∧ new.ind = s.params.regOff .b .data ∧
      (new.cap = s.params.regOff .a .cap ∨ new.cap = s.params.regOff .b .cap)) :
    State.Inv { s with bs := s.bs.set j new, callers := Callers.put s.issuer .running s.callers } := by
  obtain ⟨⟨hp, hslots, hbs⟩, hcallers, howners, hframer, hwaits⟩ := h
  have callers_ok := Callers.wf_put hcallers s.issuer .running
  refine ⟨⟨hp, hslots, List.length_set.trans hbs⟩, callers_ok,
    State.ownersOk_start hcallers callers_ok howners hc ?_ rfl, hframer, State.waitsOk_set hwaits rfl rfl hw⟩
  simp only [State.owners_eq, ← ho]
  exact ((busyOwners_set_busy hj (by simp [Bs.busy, hi]) ((Bs.busy_iff _).2 hn)).append_left _).trans
    List.perm_middle

/-- A busy sequencer goes on to its next state, in its WAIT if it was in one (R142). -/
theorem State.Inv.moveBs {s : State} (h : s.Inv) {j : Nat} {b : Bs} {st : BsSt} (tmp : Byte)
    (hj : s.bs[j]? = some b) (hb : b.st ≠ .idle) (hst : st ≠ .idle) (hw : st.inWait = b.st.inWait) :
    State.Inv { s with bs := s.bs.set j { b with st := st, tmp := tmp } } := by
  obtain ⟨⟨hp, hslots, hbs⟩, hcallers, howners, hframer, hwaits⟩ := h
  refine ⟨⟨hp, hslots, List.length_set.trans hbs⟩, hcallers,
    State.ownersOk_keep hcallers hcallers howners ?_ fun _ => .rfl, hframer,
    State.waitsOk_set hwaits rfl rfl fun hin => hwaits b (List.mem_of_getElem? hj) (hw ▸ hin)⟩
  exact (busyOwners_set_same (new := { b with st := st, tmp := tmp }) hj ((Bs.busy_iff _).2 hb)
    ((Bs.busy_iff _).2 hst) rfl).append_left _

/-- A busy sequencer ends its command (R142). -/
theorem State.Inv.finishBs {s : State} (h : s.Inv) {j : Nat} {b : Bs} (hj : s.bs[j]? = some b)
    (hb : b.st ≠ .idle) (code : ResultCode) : (s.finishBs j b.owner code).Inv := by
  obtain ⟨⟨hp, hslots, hbs⟩, hcallers, howners, hframer, hwaits⟩ := h
  have callers_ok := Callers.wf_put hcallers b.owner (.done (hrw code 0#8))
  have bs_set : (s.finishBs j b.owner code).bs = s.bs.set j { b with st := .idle } :=
    congrArg State.bs (State.modifyBs_eq (s := s.deliver b.owner code 0#8) hj _)
  refine ⟨⟨hp, hslots, (List.length_modify _ _ _).trans hbs⟩, callers_ok,
    State.ownersOk_finish hcallers callers_ok howners ?_ rfl, hframer,
    State.waitsOk_set hwaits rfl bs_set (by simp [BsSt.inWait])⟩
  simp only [State.owners_eq, bs_set]
  exact ((busyOwners_set_idle hj ((Bs.busy_iff _).2 hb) (by simp [Bs.busy])).append_left _).trans
    List.perm_middle

/-! ### The steps -/

theorem fsWritten_inv {s : State} (h : s.Inv) (hb : s.fs.busy = true) :
    (fsWritten s.fs.owner s.fs.buf s).Inv := by
  rcases fsWritten_cases s.fs.owner s.fs.buf s with ⟨_, ht⟩ | ⟨_, ht⟩ | ⟨_, ht⟩ <;> rw [ht]
  · exact h
  · exact h.finishFs hb false s.fs.attempt .transportError
  · have echoed := State.Inv.echoTx (s := s.log .fs (.serWrite s.fs.buf (.ok ()))) h s.fs.buf
    exact echoed.setFsBusy (st := .settle) (by simpa using hb) (by simp) (by simpa using h.attempt_lt hb)

theorem fsAttemptDone_inv {s : State} (h : s.Inv) (hb : s.fs.busy = true) (rx : List Byte) :
    (fsAttemptDone s.fs.owner s.fs.attempt rx s).Inv := by
  rcases fsAttemptDone_cases s.fs.owner s.fs.attempt rx s with ⟨_, ht⟩ | ⟨_, hn, ht⟩ | ⟨_, _, ht⟩ <;>
    rw [ht]
  · exact h.finishFs hb s.serialOpen s.fs.attempt .ok
  · exact h.setFsBusy hb (by simp) hn
  · exact h.finishFs hb s.serialOpen (s.fs.attempt + 1) .protocolError

theorem fsDrained_inv {s : State} (h : s.Inv) (hb : s.fs.busy = true) :
    (fsDrained s.fs.owner s.fs.attempt s).Inv := by
  rcases fsDrained_cases s.fs.owner s.fs.attempt s with ⟨_, ht⟩ | ⟨_, ht⟩ | ⟨rx, _, ht⟩ <;> rw [ht]
  · exact h
  · exact h.finishFs hb false s.fs.attempt .transportError
  · have echoed := State.Inv.echoRx (s := s.log .fs (.serDrain (.ok rx))) h rx
    simpa using fsAttemptDone_inv echoed (by simpa using hb) rx

/-- The acceptance of a command that is held. -/
theorem Accepted.inv {i : Instr} {s t : State} (ha : Accepted i s t) (h : s.Inv)
    (hc : s.caller s.issuer ≠ some .running) : t.Inv := by
  have completed : ∀ {u : State} {r : Word}, u.Inv → u.caller u.issuer ≠ some .running →
      (u.setCaller u.issuer (.done r)).Inv := fun hu hcu => hu.setCaller hcu (by simp)
  cases ha with
  | held => exact h
  | answered | bus | diag => exact completed h hc
  | serial e v k hi => exact completed (State.Inv.setSerialOpen (s := s.log _ e) h hi v) hc
  | bind => exact completed (h.setSlot _ _) hc
  | send body hi ho hb => exact h.startTx hc hi ho hb
  | sendFn body slot num sw sl new hi ho _ _ _ hb => exact (h.setSlot _ new).startTx hc hi ho hb
  | onBs j b new hj hi hn _ ho hw => exact h.startBs hc hj hi hn ho hw
  | frame _ _ hw => exact fsWritten_inv h (Fs.busy_of_write hw)

theorem BsStepped.inv {j : Nat} {b : Bs} {s t : State} (hs : BsStepped j b s t) (hj : s.bs[j]? = some b)
    (h : s.Inv) : t.Inv := by
  cases hs with
  | same => exact h
  | lost hb => exact h.finishBs hj hb .busError
  | failed e hb => exact State.Inv.finishBs (s := (s.log _ e).setBusOpen false) h hj hb .busError
  | moved e st tmp hb _ hw hi => exact State.Inv.moveBs (s := s.log _ e) h tmp hj hb hi hw
  | done e hb => exact State.Inv.finishBs (s := s.log _ e) h hj hb .ok

theorem Stepped.inv {s u t : State} (hs : Stepped s u t) (h : u.Inv) : t.Inv := by
  cases hs with
  | issue c w => exact h.issue c w
  | receive c => exact h.receive c
  | illegal c w _ _ hc => exact h.setCaller (c := c) (by simp [hc]) (by simp)
  | accept c w i t _ hc _ _ ha => exact ha.inv h (by simp [hc])
  | fsWrite _ hw => exact fsWritten_inv h (Fs.busy_of_write hw)
  | fsSettle _ hst =>
    have hb : u.fs.busy = true := (Fs.busy_iff _).2 (by simp [hst])
    exact State.Inv.setFsBusy (s := u.log .fs _) h hb (st := .drain) (by simp) (h.attempt_lt hb)
  | fsDrain _ hst => exact fsDrained_inv h ((Fs.busy_iff _).2 (by simp [hst]))
  | bs j b t _ hj ht => exact ht.inv hj h
  | reset => exact invAtReset u.params h.wellFormed
  | noHeld | fsIdle | noBs => exact h

/-- Settles O39: every operation a step is made of keeps the invariant, by the rule of that operation. -/
theorem stepKeepsInv : Obligations.StepKeepsInv :=
  fun _ _ h hstep => (step_stepped hstep).inv h.takeTurn

end Sys2Proof.Machine
end

section
/-! PROOFS. Every step completes (10_state R38): no step reads a register that has no value, and FS's WRITE never
refuses its own frame. -/

namespace Sys2Proof.Machine

/-- The outcome is a next state. -/
def Completes (r : Result) : Prop := ∃ t, r = .next t

@[simp] theorem completes_next (t : State) : Completes (.next t) := ⟨t, rfl⟩

/-! ### Holds and checks -/

theorem completes_acceptWhen {free : Bool} {s : State} {k : Result} (hk : Completes k) :
    Completes (acceptWhen free s k) := by
  cases free
  · exact completes_next s
  · exact hk

theorem completes_serialClass {s : State} {k : Result} (hk : Completes k) : Completes (serialClass s k) :=
  completes_acceptWhen hk

theorem completes_whenSerialOpen {s : State} {k : Result} (hk : Completes k) :
    Completes (whenSerialOpen s k) := by
  unfold whenSerialOpen
  split
  · exact hk
  · exact completes_next _

theorem completes_whenBusOpen {s : State} {k : Result} (hk : Completes k) : Completes (whenBusOpen s k) := by
  unfold whenBusOpen
  split
  · exact hk
  · exact completes_next _

theorem completes_busClass {s : State} {k : Nat → Result} (hk : ∀ j, Completes (k j)) :
    Completes (busClass s k) := by
  unfold busClass
  split
  · exact hk _
  · exact completes_next s

/-! ### Commands -/

/-- The acceptance of a host command answers a next state: the two sends that read a slot have checked that it is
bound (R105, R110). -/
theorem exec_completes {i : Instr} (hi : ∀ bytes, encode i ≠ .frame bytes) (s : State) :
    Completes (exec i s) := by
  cases i with
  | openSerial => exact completes_serialClass (completes_next _)
  | closeSerial => exact completes_serialClass (completes_whenSerialOpen (completes_next _))
  | throttle slot dir speed =>
    refine completes_serialClass ?_
    split
    · exact completes_next _
    · rename_i sl hsl
      obtain ⟨_, _, hbound⟩ := State.boundSlot_some hsl
      split
      · exact completes_whenSerialOpen (by simp [hbound])
      · exact completes_next _
  | function slot num sw =>
    refine completes_serialClass ?_
    split
    · exact completes_next _
    · rename_i sl hsl
      obtain ⟨_, _, hbound⟩ := State.boundSlot_some hsl
      split
      · exact completes_next _
      · exact completes_whenSerialOpen (by simp [hbound])
  | activate | deactivate => exact completes_serialClass (completes_whenSerialOpen (completes_next _))
  | closeBus => exact completes_acceptWhen (completes_whenBusOpen (completes_next _))
  | configure ctrl => exact completes_busClass fun j => completes_whenBusOpen (completes_next _)
  | wait ctrl bank port =>
    refine completes_busClass fun j => ?_
    split
    · exact completes_next _
    · split
      · exact completes_next _
      · exact completes_whenBusOpen (completes_next _)
  | setDiag | bindTrain | openBus | makeSensor => exact completes_next _
  | frameThrottle | frameFunction | frameActivate | frameDeactivate => exact absurd rfl (hi _)

/-! ### FS -/

/-- The third byte of an accessory frame from its parts (30_encoding R88). -/
theorem accessory_b2_eq (b : Byte) (h : b.extractLsb' 7 1 = 1#1) :
    1#1 ++ b.extractLsb' 1 6 ++ b.extractLsb' 0 1 = b := by
  revert b
  decide

/-- The speed byte of a throttle frame from its parts (30_encoding R86). -/
theorem speed_byte_eq (b : Byte) : b.extractLsb' 7 1 ++ b.extractLsb' 0 7 = b := by
  revert b
  decide

/-- Bytes that decode as a wire frame are the bytes of that frame (30_encoding R86 to R88). -/
theorem encode_of_decodeFrame {bytes : List Byte} {i : Instr} (h : decodeFrame bytes = .ok i) :
    encode i = .frame bytes := by
  unfold decodeFrame at h
  split at h
  · rename_i b0 b1 b2 b3
    unfold decodeFrame4 at h
    split_ifs at h with h0 h7 hx
    · cases h
      have b2_eq := accessory_b2_eq b2 (not_not.1 h7)
      rw [hx] at b2_eq
      simp [encode, accessoryBytes, b2_eq, not_not.1 h0]
    · cases h
      have b2_eq := accessory_b2_eq b2 (not_not.1 h7)
      rw [(BitVec.eq_zero_or_eq_one _).resolve_right hx] at b2_eq
      simp [encode, accessoryBytes, b2_eq, not_not.1 h0]
  · rename_i b0 b1 b2 b3 b4 b5
    unfold decodeFrame6 at h
    split_ifs at h with h2 h0 h1 h0' h1
    · cases h
      simp [encode, h0, h1, addrHi_addrOf (not_not.1 h2), addrLo_addrOf, speed_byte_eq]
    · cases h
      simp [encode, h1, addrHi_addrOf (not_not.1 h2), addrLo_addrOf]
  · cases h

/-- FS's turn completes: its registers have values while it is busy, and the frame its buffer decodes as is the
frame in its buffer (R120). -/
theorem fsTurn_completes (s : State) : Completes (fsTurn s) := by
  cases hst : s.fs.st with
  | idle => simp [fsTurn, hst]
  | settle => simp [fsTurn, hst]
  | drain =>
    have hb : s.fs.busy = true := (Fs.busy_iff _).2 (by simp [hst])
    simp [fsTurn, hst, fsDrain_busy hb]
  | write =>
    have hb := Fs.busy_of_write hst
    simp only [fsTurn, hst, fsWriteTurn, reading_fsBuf hb]
    split
    · rename_i i hi
      simp [exec_of_frame (encode_of_decodeFrame hi), sendFrame, hst, fsWrite_busy hb]
    · simp [fsWrite_busy hb]

/-! ### The bus sequencers -/

/-- A bus sequencer reads, in each of its states, only registers that have a value then. -/
theorem bsAct_completes (j : Nat) (b : Bs) (s : State) : Completes (bsAct j b s) := by
  cases hst : b.st
  case idle | wSleep => simp [bsAct, hst, bsSleep]
  all_goals have hb : b.busy = true := (Bs.busy_iff _).2 (by simp [hst])
  case cfgDirA | cfgDirB | cfgPuA | cfgIeA =>
    simp [bsAct, hst, bsCfgDirA, bsCfgDirB, bsCfgPuA, bsCfgIeA, withDev_busy hb]
  case wUnlatch | wIoffRd | wPollRd | wIonRd | wIoffWr | wIonWr =>
    simp [bsAct, hst, bsUnlatch, bsIoffRd, bsPollRd, bsIonRd, bsIoffWr, bsIonWr, withDev_busy hb, Bs.readCap,
      Bs.readInd, Bs.readMask, Bs.readTmp, BsSt.inWait, BsSt.hasTmp]

theorem bsTurn_completes (j : Nat) (s : State) : Completes (bsTurn j s) := by
  unfold bsTurn
  split
  · exact bsAct_completes j _ s
  · exact completes_next s

/-! ### The machine -/

theorem acceptTurn_completes (c : CallerId) (s : State) : Completes (acceptTurn c s) := by
  unfold acceptTurn
  split
  · split
    · rename_i w _ i hi
      exact exec_completes (decodeHcw_notFrame hi) _
    · exact completes_next _
  all_goals exact completes_next s

/-- Settles O41: each move completes, an acceptance because its checks precede its reads, a sequencer's step because
its state gives the registers it reads a value. -/
theorem stepAlwaysCompletes : Obligations.StepAlwaysCompletes := by
  intro s hp
  rw [step, if_pos hp]
  cases s.nextTurn.move with
  | accept c => exact acceptTurn_completes c _
  | fs => exact fsTurn_completes _
  | bs j => exact bsTurn_completes j _
  | issue | receive | reset => exact completes_next _

end Sys2Proof.Machine
end

section
/-! PROOFS. What changes a train slot (10_state R26), and what changes the two connection flags and diag (R22 to
R24): each is said once of an acceptance, of FS and of a bus sequencer, and then of a step. -/

namespace Sys2Proof.Machine

/-! ### A flag's moves -/

/-- How a connection flag goes from v to v': it stays, or is set by what opens it, or cleared by what closes
it. -/
inductive FlagMoved (v v' : Bool) (opens closes : Prop) : Prop where
  | same (h : v' = v)
  | set (h : opens) (hv : v = false)
  | clear (h : closes) (hv : v' = false)

theorem FlagMoved.opens {v v' : Bool} {opens closes : Prop} (h : FlagMoved v v' opens closes)
    (hv : v = false) (hv' : v' = true) : opens := by
  cases h with
  | set h => exact h
  | same h | clear _ h => simp_all

theorem FlagMoved.closes {v v' : Bool} {opens closes : Prop} (h : FlagMoved v v' opens closes)
    (hv : v = true) (hv' : v' = false) : closes := by
  cases h with
  | clear h => exact h
  | same h | set _ h => simp_all

theorem FlagMoved.imp {v v' : Bool} {o o' c c' : Prop} (h : FlagMoved v v' o c) (ho : o → o') (hc : c → c') :
    FlagMoved v v' o' c' := by
  cases h with
  | same h => exact .same h
  | set h hv => exact .set (ho h) hv
  | clear h hv => exact .clear (hc h) hv

/-! ### FS and the host's side -/

/-- From s to t no slot changes, nor bus_open, nor diag; serial_open changes only by being cleared if `fails`. -/
structure LinkFrame (fails : Prop) (s t : State) : Prop where
  slots : t.slots = s.slots
  serialOpen : FlagMoved s.serialOpen t.serialOpen False fails
  busOpen : t.busOpen = s.busOpen
  diag : t.diag = s.diag

/-- A SerWrite closes the link only when it fails (R120). -/
theorem fsWritten_frame (owner : CallerId) (buf : List Byte) (s : State) :
    LinkFrame (s.draw.write = .fail) s (fsWritten owner buf s) := by
  rcases fsWritten_cases owner buf s with ⟨_, h⟩ | ⟨hd, h⟩ | ⟨_, h⟩ <;> rw [h]
  · exact ⟨rfl, .same rfl, rfl, rfl⟩
  · exact ⟨rfl, .clear hd rfl, rfl, rfl⟩
  · exact ⟨by simp, .same (by simp), by simp, by simp⟩

theorem fsAttemptDone_frame (owner : CallerId) (n : Nat) (rx : List Byte) (s : State) :
    LinkFrame False s (fsAttemptDone owner n rx s) := by
  rcases fsAttemptDone_cases owner n rx s with ⟨_, h⟩ | ⟨_, _, h⟩ | ⟨_, _, h⟩ <;> rw [h] <;>
    exact ⟨rfl, .same rfl, rfl, rfl⟩

/-- A SerDrain closes the link only when it fails (R120). -/
theorem fsDrained_frame (owner : CallerId) (n : Nat) (s : State) :
    LinkFrame (s.draw.drain = .fail) s (fsDrained owner n s) := by
  rcases fsDrained_cases owner n s with ⟨_, h⟩ | ⟨hd, h⟩ | ⟨rx, _, h⟩ <;> rw [h]
  · exact ⟨rfl, .same rfl, rfl, rfl⟩
  · exact ⟨rfl, .clear hd rfl, rfl, rfl⟩
  · have done := fsAttemptDone_frame owner n rx ((s.log .fs (.serDrain (.ok rx))).echoRx rx)
    exact ⟨by simp [done.slots], by simpa using done.serialOpen.imp id False.elim, by simp [done.busOpen],
      by simp [done.diag]⟩

theorem State.issue_frame (c : CallerId) (w : Word) (s : State) : LinkFrame False s (s.issue c w) := by
  rcases State.issue_cases c w s with ⟨_, h⟩ | ⟨_, h⟩ <;> rw [h] <;> exact ⟨rfl, .same rfl, rfl, rfl⟩

theorem State.receive_frame (c : CallerId) (s : State) : LinkFrame False s (s.receive c) := by
  rcases State.receive_cases c s with ⟨_, _, h⟩ | ⟨_, h⟩ <;> rw [h] <;> exact ⟨rfl, .same rfl, rfl, rfl⟩

/-! ### Slots -/

/-- How the acceptance of i changes the slots: not at all, or one slot, as BIND_TRAIN or as FUNCTION does. -/
inductive SlotsMoved (i : Instr) (l m : List Slot) : Prop where
  | same (h : m = l)
  | bind (slot : Byte) (addr : BitVec 16) (new : Slot) (hi : i = .bindTrain slot addr) (hn : new.bound = true)
      (h : m = l.set slot.toNat new)
  | function (slot num : Byte) (sw : Switch) (sl new : Slot) (hi : i = .function slot num sw)
      (hs : l[slot.toNat]? = some sl) (ha : new.addr = sl.addr) (hb : new.bound = sl.bound)
      (h : m = l.set slot.toNat new)

theorem Accepted.slotsMoved {i : Instr} {s t : State} (h : Accepted i s t) : SlotsMoved i s.slots t.slots := by
  cases h with
  | bind slot addr a _ hi => exact .bind slot addr _ hi rfl rfl
  | sendFn body slot num sw sl new _ _ hi hs hk =>
    obtain ⟨hsl, hnew, haddr⟩ := hk
    exact .function slot num sw sl new hi hs haddr (hnew.trans hsl.symm) rfl
  | frame => exact .same (fsWritten_frame _ _ s).slots
  | held | answered | serial | bus | diag | send | onBs => exact .same rfl

theorem BsStepped.slots_eq {j : Nat} {b : Bs} {s t : State} (h : BsStepped j b s t) : t.slots = s.slots := by
  cases h <;> rfl

/-- A step changes the slots only as the acceptance of a held command does, or by reset. -/
theorem step_slotsMoved {s t : State} (h : step s = .next t) (hne : t.slots ≠ s.slots) :
    s.nextTurn.move = .reset ∨ ∃ i, acceptsInstr s i ∧ SlotsMoved i s.slots t.slots := by
  rw [← s.takeTurn_slots] at hne
  cases step_stepped h with
  | reset hm => exact .inl hm
  | accept c w i t hm hc hd _ ha =>
    exact .inr ⟨i, ⟨c, w, hm, by simpa using hc, hd⟩, by simpa using ha.slotsMoved⟩
  | issue => exact absurd (State.issue_frame _ _ _).slots hne
  | receive => exact absurd (State.receive_frame _ _).slots hne
  | fsWrite => exact absurd (fsWritten_frame _ _ _).slots hne
  | fsDrain => exact absurd (fsDrained_frame _ _ _).slots hne
  | bs j b t _ _ ht => exact absurd ht.slots_eq hne
  | noHeld | illegal | fsIdle | fsSettle | noBs => exact absurd rfl hne

/-- A set that changes a list is of a place in it. -/
theorem lt_length_of_set_ne {α : Type} {l : List α} {n : Nat} {a : α} (h : l.set n a ≠ l) : n < l.length :=
  Nat.lt_of_not_le fun hle => h (List.set_eq_of_length_le hle)

/-- Settles O43: the two commands that change a slot set the one they name, and reset is the only other way. -/
theorem slotsChangeOnlyBy : Obligations.SlotsChangeOnlyBy := by
  intro s t hstep hne
  refine (step_slotsMoved hstep hne).imp_right fun ⟨i, hi, hmoved⟩ => ?_
  cases hmoved with
  | same h => exact absurd h hne
  | bind slot addr new hinstr hbound h =>
    have hlt := lt_length_of_set_ne (h ▸ hne)
    refine .inl ⟨slot, addr, hinstr ▸ hi, fun n hn => by rw [h, List.getElem?_set_ne hn.symm], new, ?_, hbound⟩
    rw [h, List.getElem?_set_self hlt]
  | function slot num sw sl new hinstr hs haddr hbound h =>
    have hlt := lt_length_of_set_ne (h ▸ hne)
    refine .inr ⟨slot, num, sw, hinstr ▸ hi, fun n hn => by rw [h, List.getElem?_set_ne hn.symm],
      fun sl' hsl' => ?_⟩
    obtain rfl : sl = sl' := Option.some.inj (hs.symm.trans hsl')
    exact ⟨new, by rw [h, List.getElem?_set_self hlt], haddr, hbound⟩

/-! ### Flags -/

/-- A host command's acceptance moves serial_open only as OPEN or as CLOSE (R100, R101). -/
theorem Accepted.serialOpen_moved {i : Instr} {s t : State} (h : Accepted i s t)
    (hi : ∀ bytes, encode i ≠ .frame bytes) :
    FlagMoved s.serialOpen t.serialOpen (i = .openSerial) (i = .closeSerial) := by
  cases h with
  | serial e v k _ _ _ _ hv =>
    rcases hv with ⟨hopen, hs⟩ | ⟨hclose, hv⟩
    · exact .set hopen hs
    · exact .clear hclose hv
  | frame bytes hf => exact absurd hf (hi bytes)
  | held | answered | bus | diag | bind | send | sendFn | onBs => exact .same rfl

/-- An acceptance moves bus_open only as OPEN_BUS or as CLOSE_BUS (R140, R141). -/
theorem Accepted.busOpen_moved {i : Instr} {s t : State} (h : Accepted i s t) :
    FlagMoved s.busOpen t.busOpen (i = .openBus) (i = .closeBus) := by
  cases h with
  | bus e v k _ _ _ hv =>
    rcases hv with ⟨hopen, hs⟩ | ⟨hclose, hv⟩
    · exact .set hopen hs
    · exact .clear hclose hv
  | frame => exact .same (fsWritten_frame _ _ s).busOpen
  | held | answered | serial | diag | bind | send | sendFn | onBs => exact .same rfl

/-- An acceptance moves diag only as SET_DIAG (R102). -/
theorem Accepted.diag_moved {i : Instr} {s t : State} (h : Accepted i s t) :
    t.diag = s.diag ∨ ∃ en, i = .setDiag en := by
  cases h with
  | diag en _ hi => exact .inr ⟨en, hi⟩
  | frame => exact .inl (fsWritten_frame _ _ s).diag
  | held | answered | serial | bus | bind | send | sendFn | onBs => exact .inl rfl

theorem BsStepped.serialOpen_eq {j : Nat} {b : Bs} {s t : State} (h : BsStepped j b s t) :
    t.serialOpen = s.serialOpen := by
  cases h <;> rfl

theorem BsStepped.diag_eq {j : Nat} {b : Bs} {s t : State} (h : BsStepped j b s t) : t.diag = s.diag := by
  cases h <;> rfl

/-- A sequencer's step closes the bus only when its transaction fails (R142). -/
theorem BsStepped.busOpen_moved {j : Nat} {b : Bs} {s t : State} (h : BsStepped j b s t) :
    FlagMoved s.busOpen t.busOpen False
      ((b.st.reads = true ∧ s.draw.read = .fail) ∨ (b.st.writes = true ∧ s.draw.write = .fail)) := by
  cases h with
  | failed _ _ _ _ hf => exact .clear hf rfl
  | same | lost | moved | done => exact .same rfl

/-- What moves serial_open in a step: OPEN, CLOSE, a failed transaction of FS, or reset. -/
theorem step_serialOpen_moved {s t : State} (h : step s = .next t) :
    FlagMoved s.serialOpen t.serialOpen (acceptsInstr s .openSerial)
      (s.nextTurn.move = .reset ∨ acceptsInstr s .closeSerial ∨
        (s.nextTurn.move = .fs ∧
          ((s.fs.st = .write ∧ s.nextTurn.draw.write = .fail) ∨
            (s.fs.st = .drain ∧ s.nextTurn.draw.drain = .fail)))) := by
  have hs := step_stepped h
  rw [← s.takeTurn_serialOpen, ← s.takeTurn_draw, ← s.takeTurn_fs]
  cases hs with
  | accept c w i t hm hc hd _ ha =>
    have accepted : acceptsInstr s i := ⟨c, w, hm, by simpa using hc, hd⟩
    exact (ha.serialOpen_moved (decodeHcw_notFrame hd)).imp (· ▸ accepted) fun hi => .inr (.inl (hi ▸ accepted))
  | fsWrite hm hst =>
    exact (fsWritten_frame _ _ _).serialOpen.imp False.elim fun hf => .inr (.inr ⟨hm, .inl ⟨hst, hf⟩⟩)
  | fsDrain hm hst =>
    exact (fsDrained_frame _ _ _).serialOpen.imp False.elim fun hf => .inr (.inr ⟨hm, .inr ⟨hst, hf⟩⟩)
  | reset hm => exact .clear (.inl hm) rfl
  | issue => exact (State.issue_frame _ _ _).serialOpen.imp False.elim False.elim
  | receive => exact (State.receive_frame _ _).serialOpen.imp False.elim False.elim
  | bs j b t _ _ ht => exact .same ht.serialOpen_eq
  | noHeld | illegal | fsIdle | fsSettle | noBs => exact .same rfl

/-- What moves bus_open in a step: OPEN_BUS, CLOSE_BUS, a failed transaction of a bus sequencer, or reset. -/
theorem step_busOpen_moved {s t : State} (h : step s = .next t) :
    FlagMoved s.busOpen t.busOpen (acceptsInstr s .openBus)
      (s.nextTurn.move = .reset ∨ acceptsInstr s .closeBus ∨
        ∃ j b, s.nextTurn.move = .bs j ∧ s.bs[j]? = some b ∧
          ((b.st.reads = true ∧ s.nextTurn.draw.read = .fail) ∨
            (b.st.writes = true ∧ s.nextTurn.draw.write = .fail))) := by
  have hs := step_stepped h
  rw [← s.takeTurn_busOpen, ← s.takeTurn_draw, ← s.takeTurn_bs]
  cases hs with
  | accept c w i t hm hc hd _ ha =>
    have accepted : acceptsInstr s i := ⟨c, w, hm, by simpa using hc, hd⟩
    exact ha.busOpen_moved.imp (· ▸ accepted) fun hi => .inr (.inl (hi ▸ accepted))
  | bs j b t hm hj ht => exact ht.busOpen_moved.imp False.elim fun hf => .inr (.inr ⟨j, b, hm, hj, hf⟩)
  | reset hm => exact .clear (.inl hm) rfl
  | issue => exact .same (State.issue_frame _ _ _).busOpen
  | receive => exact .same (State.receive_frame _ _).busOpen
  | fsWrite => exact .same (fsWritten_frame _ _ _).busOpen
  | fsDrain => exact .same (fsDrained_frame _ _ _).busOpen
  | noHeld | illegal | fsIdle | fsSettle | noBs => exact .same rfl

/-- What moves diag in a step: SET_DIAG or reset. -/
theorem step_diag_moved {s t : State} (h : step s = .next t) (hne : t.diag ≠ s.diag) :
    s.nextTurn.move = .reset ∨ ∃ en, acceptsInstr s (.setDiag en) := by
  rw [← s.takeTurn_diag] at hne
  cases step_stepped h with
  | accept c w i t hm hc hd _ ha =>
    rcases ha.diag_moved with h | ⟨en, rfl⟩
    · exact absurd h hne
    · exact .inr ⟨en, c, w, hm, by simpa using hc, hd⟩
  | reset hm => exact .inl hm
  | issue => exact absurd (State.issue_frame _ _ _).diag hne
  | receive => exact absurd (State.receive_frame _ _).diag hne
  | fsWrite => exact absurd (fsWritten_frame _ _ _).diag hne
  | fsDrain => exact absurd (fsDrained_frame _ _ _).diag hne
  | bs j b t _ _ ht => exact absurd ht.diag_eq hne
  | noHeld | illegal | fsIdle | fsSettle | noBs => exact absurd rfl hne

/-- Settles O44: each flag moves only by what opens and what closes it, diag only by SET_DIAG and reset. -/
theorem flagsChangeOnlyBy : Obligations.FlagsChangeOnlyBy := fun _ _ hstep =>
  ⟨(step_serialOpen_moved hstep).opens, (step_serialOpen_moved hstep).closes, (step_busOpen_moved hstep).opens,
    (step_busOpen_moved hstep).closes, step_diag_moved hstep⟩

end Sys2Proof.Machine
end

section
/-! PROOFS. What a step does to the registers of one bus sequencer, and from that the two transitions of the sensor's
state machine (10_state R33). -/

namespace Sys2Proof.Machine

/-- What becomes of BS[j], whose registers are b, in a step from s to t: nothing; a command starts on it while it is
idle; its own step; or reset. -/
inductive BsMoved (j : Nat) (b : Bs) (s t : State) (q : Bs) : Prop where
  | same (h : q = b)
  | started (hb : b.st = .idle) (hp : q.st.phase ≠ some .armed)
  | stepped (h : BsStepped j b s t)
  | reset (h : t = s.resetEvent) (hq : q.st = .idle)

theorem eq_of_bs_eq {j : Nat} {b q : Bs} {s t : State} (h : t.bs[j]? = s.bs[j]?) (hb : s.bs[j]? = some b)
    (hq : t.bs[j]? = some q) : q = b :=
  Option.some.inj (by rw [← hq, h, hb])

@[simp] theorem fsWritten_bs (owner : CallerId) (buf : List Byte) (s : State) :
    (fsWritten owner buf s).bs = s.bs := by
  rcases fsWritten_cases owner buf s with ⟨_, h⟩ | ⟨_, h⟩ | ⟨_, h⟩ <;> simp [h]

@[simp] theorem fsDrained_bs (owner : CallerId) (n : Nat) (s : State) : (fsDrained owner n s).bs = s.bs := by
  rcases fsDrained_cases owner n s with ⟨_, h⟩ | ⟨_, h⟩ | ⟨rx, _, h⟩
  · simp [h]
  · simp [h]
  · rcases fsAttemptDone_cases owner n rx ((s.log .fs (.serDrain (.ok rx))).echoRx rx) with
      ⟨_, hd⟩ | ⟨_, _, hd⟩ | ⟨_, _, hd⟩ <;> simp [h, hd]

@[simp] theorem State.issue_bs (c : CallerId) (w : Word) (s : State) : (s.issue c w).bs = s.bs := by
  rcases State.issue_cases c w s with ⟨_, h⟩ | ⟨_, h⟩ <;> simp [h]

@[simp] theorem State.receive_bs (c : CallerId) (s : State) : (s.receive c).bs = s.bs := by
  rcases State.receive_cases c s with ⟨_, _, h⟩ | ⟨_, h⟩ <;> simp [h]

/-- An acceptance leaves the sequencer as it is, or starts a command on it while it is idle. -/
theorem Accepted.bs_cases {i : Instr} {s t : State} (h : Accepted i s t) {j : Nat} {b q : Bs}
    (hb : s.bs[j]? = some b) (hq : t.bs[j]? = some q) : q = b ∨ b.st = .idle ∧ q.st.phase ≠ some .armed := by
  cases h with
  | onBs k b' new hk hi _ hp =>
    by_cases hkj : k = j
    · subst hkj
      obtain rfl : b' = b := Option.some.inj (hk.symm.trans hb)
      obtain ⟨hlt, _⟩ := List.getElem?_eq_some_iff.1 hb
      obtain rfl : new = q := Option.some.inj ((List.getElem?_set_self hlt).symm.trans hq)
      exact .inr ⟨hi, hp⟩
    · exact .inl (eq_of_bs_eq (List.getElem?_set_ne hkj) hb hq)
  | frame => exact .inl (eq_of_bs_eq (by simp) hb hq)
  | held | answered | serial | bus | diag | bind | send | sendFn => exact .inl (eq_of_bs_eq rfl hb hq)

/-- A step of BS[k] changes no other sequencer. -/
theorem BsStepped.bs_other {k : Nat} {b : Bs} {s t : State} (h : BsStepped k b s t) {j : Nat} (hj : k ≠ j) :
    t.bs[j]? = s.bs[j]? := by
  cases h with
  | same => rfl
  | moved => exact List.getElem?_set_ne hj
  | lost | failed | done => exact List.getElem?_modify_ne _ _ hj

theorem Stepped.bsMoved {s u t : State} (h : Stepped s u t) {j : Nat} {b q : Bs} (hb : u.bs[j]? = some b)
    (hq : t.bs[j]? = some q) : BsMoved j b u t q := by
  cases h with
  | accept c w i t _ _ _ _ ha =>
    rcases ha.bs_cases hb hq with h | ⟨hi, hp⟩
    · exact .same h
    · exact .started hi hp
  | bs k b' t _ hk ht =>
    by_cases hkj : k = j
    · subst hkj
      obtain rfl : b' = b := Option.some.inj (hk.symm.trans hb)
      exact .stepped ht
    · exact .same (eq_of_bs_eq (ht.bs_other hkj) hb hq)
  | reset =>
    refine .reset rfl ?_
    rw [List.eq_of_mem_replicate (List.mem_of_getElem? hq)]
    rfl
  | issue => exact .same (eq_of_bs_eq (by simp) hb hq)
  | receive => exact .same (eq_of_bs_eq (by simp) hb hq)
  | fsWrite => exact .same (eq_of_bs_eq (by simp) hb hq)
  | fsDrain => exact .same (eq_of_bs_eq (by simp) hb hq)
  | noHeld | illegal | fsIdle | fsSettle | noBs => exact .same (eq_of_bs_eq rfl hb hq)

theorem newEvents_of_log {s t : State} {a : Agent} {e : Event} (h : t.history = (s.log a e).history) :
    newEvents s t = [⟨a, e⟩] := by
  simp [newEvents, h]

/-- The sequencer that ends its command is idle then. -/
theorem State.finishBs_st {s : State} {j : Nat} {c : CallerId} {k : ResultCode} {b q : Bs}
    (hq : (s.finishBs j c k).bs[j]? = some q) (hb : s.bs[j]? = some b) : q.st = .idle := by
  simp only [State.finishBs_bs, List.getElem?_modify_eq, hb, Option.map_eq_map, Option.map_some,
    Option.some.injEq] at hq
  rw [← hq]

@[simp] theorem State.finishBs_caller_self (j : Nat) (c : CallerId) (k : ResultCode) (s : State) :
    (s.finishBs j c k).caller c = some (.done (hrw k 0#8)) :=
  Callers.get_put_self _ _ _

/-- A BusError is no OK (30_encoding R80). -/
theorem finishBs_busError_ne_ok (j : Nat) (c : CallerId) (s : State) :
    (s.finishBs j c .busError).caller c ≠ some (.done 0x00000000#32) := by
  rw [State.finishBs_caller_self]
  decide

/-- A sequencer's own step takes it into ARMED only by the write that turns the indicator off (R153). -/
theorem BsStepped.armed {j : Nat} {b q : Bs} {s t : State} (h : BsStepped j b s t) (hb : s.bs[j]? = some b)
    (hq : t.bs[j]? = some q) (hbp : b.st.phase ≠ some .armed) (hqp : q.st.phase = some .armed) :
    b.st = .wIoffWr ∧ newEvents s t = [⟨.bs j, .busWrite b.dev b.ind (b.tmp &&& ~~~b.mask) (.ok ())⟩] := by
  obtain ⟨hlt, _⟩ := List.getElem?_eq_some_iff.1 hb
  cases h with
  | same => exact absurd (eq_of_bs_eq rfl hb hq ▸ hqp) hbp
  | lost | failed | done =>
    simp [State.finishBs_st hq hb, BsSt.phase] at hqp
  | moved e st tmp _ _ _ _ ha =>
    obtain rfl : { b with st := st, tmp := tmp } = q :=
      Option.some.inj ((List.getElem?_set_self hlt).symm.trans hq)
    obtain ⟨hst, rfl⟩ := (ha hqp).resolve_left hbp
    exact ⟨hst, newEvents_of_log rfl⟩

/-- A sequencer's own step ends its WAIT with OK only by the write that turns the indicator on (R157). -/
theorem BsStepped.triggered {j : Nat} {b q : Bs} {s t : State} (h : BsStepped j b s t) (hb : s.bs[j]? = some b)
    (hq : t.bs[j]? = some q) (hin : b.st.inWait = true) (hqi : q.st = .idle)
    (hr : t.caller b.owner = some (.done 0x00000000#32)) :
    b.st = .wIonWr ∧ newEvents s t = [⟨.bs j, .busWrite b.dev b.ind (b.tmp ||| b.mask) (.ok ())⟩] := by
  obtain ⟨hlt, _⟩ := List.getElem?_eq_some_iff.1 hb
  cases h with
  | same =>
    obtain rfl := eq_of_bs_eq rfl hb hq
    simp [hqi, BsSt.inWait] at hin
  | lost | failed => exact absurd hr (finishBs_busError_ne_ok _ _ _)
  | moved e st tmp _ _ _ hi =>
    obtain rfl : { b with st := st, tmp := tmp } = q :=
      Option.some.inj ((List.getElem?_set_self hlt).symm.trans hq)
    exact absurd hqi hi
  | done e _ _ hw =>
    obtain ⟨hst, rfl⟩ := hw hin
    exact ⟨hst, newEvents_of_log rfl⟩

/-- Settles O51: only the sequencer's own step takes it into ARMED, or ends its WAIT with OK. -/
theorem sensorPhasesByIndicator : Obligations.SensorPhasesByIndicator := by
  intro s t j b q hstep hb hq
  rw [← s.takeTurn_bs] at hb
  have taken : newEvents s t = newEvents s.takeTurn t := by simp [newEvents]
  rw [taken]
  refine ⟨fun hbp hqp => ?_, fun hin hqi hr _ => ?_⟩
  · cases (step_stepped hstep).bsMoved hb hq with
    | same h => exact absurd (h ▸ hqp) hbp
    | started _ hp => exact absurd hqp hp
    | stepped h => exact h.armed hb hq hbp hqp
    | reset _ h => simp [h, BsSt.phase] at hqp
  · cases (step_stepped hstep).bsMoved hb hq with
    | same h => simp [← h, hqi, BsSt.inWait] at hin
    | started hi _ => simp [hi, BsSt.inWait] at hin
    | stepped h => exact h.triggered hb hq hin hqi hr
    | reset h => simp [h, State.caller] at hr

end Sys2Proof.Machine
end

section
/-! PROOFS. Two non-interference statements: diagnostics (10_state R24) and the registers that have no value (R38).
Both say that a step respects a view of the state. What the operations of a step must do for that is said once
(StepView), the step is shown to respect every such view, and the two views are shown to be such. -/

namespace Sys2Proof.Machine

/-! ### What a step's course depends on -/

/-- The two states differ in no field but the history, diag, and the registers that have no value. -/
structure SameVisible (s t : State) : Prop where
  params : s.params = t.params
  serialOpen : s.serialOpen = t.serialOpen
  busOpen : s.busOpen = t.busOpen
  slots : s.slots.map Slot.scrub = t.slots.map Slot.scrub
  fs : s.fs.scrub = t.fs.scrub
  bs : s.bs.map Bs.scrub = t.bs.map Bs.scrub
  callers : s.callers = t.callers
  results : s.results = t.results
  script : s.script = t.script
  tick : s.tick = t.tick
  draw : s.draw = t.draw
  issuer : s.issuer = t.issuer

theorem Slot.scrub_bound (sl : Slot) : sl.scrub.bound = sl.bound := by
  cases h : sl.bound <;> simp [Slot.scrub, Slot.reset, h]

theorem Slot.scrub_of_bound {sl : Slot} (h : sl.bound = true) : sl.scrub = sl := if_pos h

theorem Fs.scrub_of_busy {f : Fs} (h : f.busy = true) : f.scrub = f := if_pos h

theorem Fs.scrub_st (f : Fs) : f.scrub.st = f.st := by
  by_cases h : f.st = .idle <;> simp [Fs.scrub, Fs.busy, Fs.reset, h]

/-! A reader does not see what its register holds while it has no value. -/

theorem readIf_ite {α : Type} (has : Bool) (r : NoValueReg) (v d : α) :
    readIf has r (if has then v else d) = readIf has r v := by
  cases has <;> rfl

@[simp] theorem Bs.scrub_st (b : Bs) : b.scrub.st = b.st := rfl
@[simp] theorem Bs.readDev_scrub (b : Bs) : b.scrub.readDev = b.readDev := readIf_ite _ _ _ _
@[simp] theorem Bs.readOwner_scrub (b : Bs) : b.scrub.readOwner = b.readOwner := readIf_ite _ _ _ _
@[simp] theorem Bs.readCap_scrub (b : Bs) : b.scrub.readCap = b.readCap := readIf_ite _ _ _ _
@[simp] theorem Bs.readInd_scrub (b : Bs) : b.scrub.readInd = b.readInd := readIf_ite _ _ _ _
@[simp] theorem Bs.readMask_scrub (b : Bs) : b.scrub.readMask = b.readMask := readIf_ite _ _ _ _
@[simp] theorem Bs.readTmp_scrub (b : Bs) : b.scrub.readTmp = b.readTmp := readIf_ite _ _ _ _
@[simp] theorem withDev_scrub (b : Bs) : withDev b.scrub = withDev b := by
  funext k
  simp [withDev]

/-- A sequencer's step reads its registers through their readers alone. -/
theorem bsAct_scrub (j : Nat) (b : Bs) (s : State) : bsAct j b.scrub s = bsAct j b s := by
  simp [bsAct, bsCfgDirA, bsCfgDirB, bsCfgPuA, bsCfgIeA, bsUnlatch, bsIoffRd, bsIoffWr, bsPollRd, bsIonRd, bsIonWr]

section
variable {s t : State}

theorem SameVisible.caller_eq (v : SameVisible s t) (c : CallerId) : s.caller c = t.caller c := by
  rw [State.caller, v.callers, State.caller]

theorem SameVisible.nextTurn_eq (v : SameVisible s t) : s.nextTurn = t.nextTurn := by
  rw [State.nextTurn, v.script, v.tick, State.nextTurn]

theorem SameVisible.fs_st (v : SameVisible s t) : s.fs.st = t.fs.st := by
  rw [← Fs.scrub_st, v.fs, Fs.scrub_st]

/-- FS's registers are the same while it is busy. -/
theorem SameVisible.fs_eq (v : SameVisible s t) (hs : s.fs.busy = true) : s.fs = t.fs := by
  have ht : t.fs.busy = true := by rwa [Fs.busy, ← v.fs_st]
  rw [← Fs.scrub_of_busy hs, v.fs, Fs.scrub_of_busy ht]

/-- A send finds the same bound slot. -/
theorem SameVisible.boundSlot_eq (v : SameVisible s t) (slot : Byte) : s.boundSlot slot = t.boundSlot slot := by
  have scrubbed : s.slots[slot.toNat]?.map Slot.scrub = t.slots[slot.toNat]?.map Slot.scrub := by
    rw [← List.getElem?_map, v.slots, List.getElem?_map]
  unfold State.boundSlot
  rw [v.params]
  cases hs : s.slots[slot.toNat]? <;> cases ht : t.slots[slot.toNat]? <;> rw [hs, ht] at scrubbed
  case some.some a b =>
    have scrub_eq : a.scrub = b.scrub := Option.some.inj scrubbed
    have bound_eq : a.bound = b.bound := by rw [← Slot.scrub_bound, scrub_eq, Slot.scrub_bound]
    cases ha : a.bound with
    | false => simp [ha, ← bound_eq]
    | true =>
      rw [Slot.scrub_of_bound ha, Slot.scrub_of_bound (bound_eq ▸ ha)] at scrub_eq
      rw [scrub_eq]
  all_goals cases scrubbed

theorem SameVisible.busAllIdle_eq (v : SameVisible s t) : s.busAllIdle = t.busAllIdle := by
  have scrubbed := congrArg (List.all · fun b => b.st = .idle) v.bs
  rwa [List.all_map, List.all_map] at scrubbed

theorem SameVisible.lowestIdleBs_eq (v : SameVisible s t) : s.lowestIdleBs = t.lowestIdleBs := by
  have scrubbed := congrArg (List.findIdx? fun b => b.st = .idle) v.bs
  rwa [List.findIdx?_map, List.findIdx?_map] at scrubbed

end

/-! ### Views -/

/-- The view f of a state hides only what SameVisible leaves open, and every operation a step is made of respects
it. -/
structure StepView (f : State → State) : Prop where
  visible {s t : State} (h : f s = f t) : SameVisible s t
  takeTurn (s : State) : f s.takeTurn = (f s).takeTurn
  setIssuer (c : CallerId) (s : State) : f (s.setIssuer c) = (f s).setIssuer c
  setCaller (c : CallerId) (v : CallerSt) (s : State) : f (s.setCaller c v) = (f s).setCaller c v
  received (c : CallerId) (r : Word) (s : State) :
    f { s.clearCaller c with results := s.results ++ [(c, r)] } =
      { (f s).clearCaller c with results := (f s).results ++ [(c, r)] }
  setSerialOpen (v : Bool) (s : State) : f (s.setSerialOpen v) = (f s).setSerialOpen v
  setBusOpen (v : Bool) (s : State) : f (s.setBusOpen v) = (f s).setBusOpen v
  log (a : Agent) {e : Event} (he : e.isDiag = false) (s : State) : f (s.log a e) = (f s).log a e
  setDiag (v : Bool) {s t : State} (h : f s = f t) : f (s.setDiag v) = f (t.setDiag v)
  echoTx (bytes : List Byte) {s t : State} (h : f s = f t) : f (s.echoTx bytes) = f (t.echoTx bytes)
  echoRx (rx : List Byte) {s t : State} (h : f s = f t) : f (s.echoRx rx) = f (t.echoRx rx)
  setSlot (i : Nat) (sl : Slot) {s t : State} (h : f s = f t) : f (s.setSlot i sl) = f (t.setSlot i sl)
  setFs (g : Fs) {s t : State} (h : f s = f t) : f (s.setFs g) = f (t.setFs g)
  modifyBs (j : Nat) (g : Bs → Bs) {s t : State} (h : f s = f t)
    (hg : ∀ b c, s.bs[j]? = some b → t.bs[j]? = some c → (g b).scrub = (g c).scrub) :
    f (s.modifyBs j g) = f (t.modifyBs j g)
  resetEvent {s t : State} (h : f s = f t) : f s.resetEvent = f t.resetEvent

/-! ### The two views -/

theorem State.sansEcho_echoTx (bytes : List Byte) (s : State) : (s.echoTx bytes).sansEcho = s.sansEcho := by
  simp [State.sansEcho, State.echoTx_history]
  cases s.diag <;> simp [Event.isDiag]

theorem State.sansEcho_echoRx (rx : List Byte) (s : State) : (s.echoRx rx).sansEcho = s.sansEcho := by
  simp [State.sansEcho, State.echoRx_history]
  cases s.diag <;> simp [Event.isDiag]

theorem State.scrub_echoTx (bytes : List Byte) (s : State) : (s.echoTx bytes).scrub = s.scrub.echoTx bytes := by
  unfold State.echoTx
  rw [apply_ite State.scrub]
  rfl

theorem State.scrub_echoRx (rx : List Byte) (s : State) : (s.echoRx rx).scrub = s.scrub.echoRx rx := by
  unfold State.echoRx
  rw [apply_ite State.scrub]
  rfl

theorem State.scrub_setSlot (i : Nat) (sl : Slot) (s : State) :
    (s.setSlot i sl).scrub = s.scrub.setSlot i sl.scrub := by
  simp [State.scrub, State.setSlot, List.map_set]

/-- Two lists that agree under φ still do after a modification that agrees at its place. -/
theorem map_modify_congr {α β : Type} {φ : α → β} {l m : List α} {j : Nat} {g : α → α}
    (h : l.map φ = m.map φ) (hg : ∀ a b, l[j]? = some a → m[j]? = some b → φ (g a) = φ (g b)) :
    (l.modify j g).map φ = (m.modify j g).map φ := by
  refine List.ext_getElem? fun i => ?_
  have hi : l[i]?.map φ = m[i]?.map φ := by rw [← List.getElem?_map, h, List.getElem?_map]
  by_cases hij : j = i
  · subst hij
    cases hl : l[j]? <;> cases hm : m[j]? <;> simp_all
  · simpa [List.getElem?_modify_ne _ _ hij] using hi

theorem sansEcho_stepView : StepView State.sansEcho where
  visible h := by
    simp only [State.sansEcho, State.mk.injEq] at h
    obtain ⟨h1, h2, h3, _, h5, h6, h7, h8, _, h10, h11, h12, h13, h14⟩ := h
    exact ⟨h1, h2, h3, by rw [h5], by rw [h6], by rw [h7], h8, h10, h11, h12, h13, h14⟩
  takeTurn s := by unfold State.takeTurn; split <;> simp_all [State.sansEcho]
  setIssuer _ _ := rfl
  setCaller _ _ _ := rfl
  received _ _ _ := rfl
  setSerialOpen _ _ := rfl
  setBusOpen _ _ := rfl
  log a e he s := by simp [State.sansEcho, State.log, he]
  setDiag _ _ _ h := h
  echoTx bytes s t h := by rw [State.sansEcho_echoTx, State.sansEcho_echoTx, h]
  echoRx rx s t h := by rw [State.sansEcho_echoRx, State.sansEcho_echoRx, h]
  setSlot i sl _ _ h := congrArg (State.setSlot i sl) h
  setFs g _ _ h := congrArg (State.setFs g) h
  modifyBs j g _ _ h _ := congrArg (State.modifyBs j g) h
  resetEvent h := congrArg State.resetEvent h

theorem scrub_stepView : StepView State.scrub where
  visible h := by
    simp only [State.scrub, State.mk.injEq] at h
    obtain ⟨h1, h2, h3, _, h5, h6, h7, h8, _, h10, h11, h12, h13, h14⟩ := h
    exact ⟨h1, h2, h3, h5, h6, h7, h8, h10, h11, h12, h13, h14⟩
  takeTurn s := by unfold State.takeTurn; split <;> simp_all [State.scrub]
  setIssuer _ _ := rfl
  setCaller _ _ _ := rfl
  received _ _ _ := rfl
  setSerialOpen _ _ := rfl
  setBusOpen _ _ := rfl
  log _ _ _ _ := rfl
  setDiag v _ _ h := congrArg (State.setDiag v) h
  echoTx bytes _ _ h := by rw [State.scrub_echoTx, State.scrub_echoTx, h]
  echoRx rx _ _ h := by rw [State.scrub_echoRx, State.scrub_echoRx, h]
  setSlot i sl _ _ h := by rw [State.scrub_setSlot, State.scrub_setSlot, h]
  setFs g _ _ h := congrArg (State.setFs g.scrub) h
  modifyBs j g s t h hg := by
    have bs_eq : s.bs.map Bs.scrub = t.bs.map Bs.scrub := congrArg State.bs h
    show { s.scrub with bs := (s.bs.modify j g).map Bs.scrub } = { t.scrub with bs := (t.bs.modify j g).map Bs.scrub }
    rw [h, map_modify_congr bs_eq hg]
  resetEvent h := congrArg (fun u => u.resetEvent.scrub) h

end Sys2Proof.Machine
end

section
/-! PROOFS. A step respects every view (StepView): two states that the view does not tell apart step alike. -/

namespace Sys2Proof.Machine

/-! ### Outcomes that agree -/

section
variable {f : State → State} {s t : State}

theorem agreeUpTo_next (h : f s = f t) : agreeUpTo f (.next s) (.next t) := h

theorem agreeUpTo_reading {α : Type} (r : Except Fault α) {k l : α → Result}
    (hk : ∀ a, agreeUpTo f (k a) (l a)) : agreeUpTo f (reading r k) (reading r l) := by
  cases r with
  | ok a => exact hk a
  | error e => exact rfl

theorem agreeUpTo_withDev (b : Bs) {k l : CallerId → Byte → Result}
    (hk : ∀ owner dev, agreeUpTo f (k owner dev) (l owner dev)) : agreeUpTo f (withDev b k) (withDev b l) :=
  agreeUpTo_reading _ fun owner => agreeUpTo_reading _ fun dev => hk owner dev

theorem agreeUpTo_acceptWhen (free : Bool) (h : f s = f t) {k l : Result} (hk : agreeUpTo f k l) :
    agreeUpTo f (acceptWhen free s k) (acceptWhen free t l) := by
  cases free
  · exact h
  · exact hk

end

namespace StepView

variable {f : State → State} (V : StepView f) {s t : State} (h : f s = f t)
include V h

/-! ### The operations -/

theorem takeTurn_congr : f s.takeTurn = f t.takeTurn := by rw [V.takeTurn, V.takeTurn, h]

theorem setIssuer_congr (c : CallerId) : f (s.setIssuer c) = f (t.setIssuer c) := by
  rw [V.setIssuer, V.setIssuer, h]

theorem setCaller_congr (c : CallerId) (v : CallerSt) : f (s.setCaller c v) = f (t.setCaller c v) := by
  rw [V.setCaller, V.setCaller, h]

theorem setSerialOpen_congr (v : Bool) : f (s.setSerialOpen v) = f (t.setSerialOpen v) := by
  rw [V.setSerialOpen, V.setSerialOpen, h]

theorem setBusOpen_congr (v : Bool) : f (s.setBusOpen v) = f (t.setBusOpen v) := by
  rw [V.setBusOpen, V.setBusOpen, h]

theorem log_congr (a : Agent) {e : Event} (he : e.isDiag = false) : f (s.log a e) = f (t.log a e) := by
  rw [V.log a he, V.log a he, h]

theorem issue_congr (c : CallerId) (w : Word) : f (s.issue c w) = f (t.issue c w) := by
  rw [State.issue, State.issue, (V.visible h).caller_eq c]
  cases t.caller c with
  | none => exact V.setCaller_congr h c _
  | some _ => exact h

theorem receive_congr (c : CallerId) : f (s.receive c) = f (t.receive c) := by
  rw [State.receive, State.receive, (V.visible h).caller_eq c]
  rcases t.caller c with _ | _ | _ | r
  · exact h
  · exact h
  · exact h
  · exact (V.received c r s).trans (h ▸ (V.received c r t).symm)

theorem complete_congr (k : ResultCode) (d : Byte) : f (s.complete k d) = f (t.complete k d) := by
  rw [State.complete, State.complete, (V.visible h).issuer]
  exact V.setCaller_congr h _ _

theorem raise_congr (k : ResultCode) : f (s.raise k) = f (t.raise k) := V.complete_congr h k _

theorem start_congr : f s.start = f t.start := by
  rw [State.start, State.start, (V.visible h).issuer]
  exact V.setCaller_congr h _ _

theorem startTx_congr (body : List Byte) : f (startTx body s) = f (startTx body t) := by
  rw [Machine.startTx, Machine.startTx, (V.visible h).issuer]
  exact V.start_congr (V.setFs _ h)

/-! ### Holds and checks -/

theorem serialClass_agree {k l : Result} (hk : agreeUpTo f k l) :
    agreeUpTo f (serialClass s k) (serialClass t l) := by
  rw [serialClass, serialClass, State.fsIdle, State.fsIdle, (V.visible h).fs_st]
  exact agreeUpTo_acceptWhen _ h hk

theorem busAllClass_agree {k l : Result} (hk : agreeUpTo f k l) :
    agreeUpTo f (busAllClass s k) (busAllClass t l) := by
  rw [busAllClass, busAllClass, (V.visible h).busAllIdle_eq]
  exact agreeUpTo_acceptWhen _ h hk

theorem busClass_agree {k l : Nat → Result} (hk : ∀ j, agreeUpTo f (k j) (l j)) :
    agreeUpTo f (busClass s k) (busClass t l) := by
  rw [busClass, busClass, (V.visible h).lowestIdleBs_eq]
  cases t.lowestIdleBs with
  | none => exact h
  | some j => exact hk j

theorem whenSerialOpen_agree {k l : Result} (hk : agreeUpTo f k l) :
    agreeUpTo f (whenSerialOpen s k) (whenSerialOpen t l) := by
  rw [whenSerialOpen, whenSerialOpen, (V.visible h).serialOpen]
  split
  · exact hk
  · exact V.raise_congr h _

theorem whenBusOpen_agree {k l : Result} (hk : agreeUpTo f k l) :
    agreeUpTo f (whenBusOpen s k) (whenBusOpen t l) := by
  rw [whenBusOpen, whenBusOpen, (V.visible h).busOpen]
  split
  · exact hk
  · exact V.raise_congr h _

/-! ### FS -/

theorem setFsSt_congr (hb : s.fs.busy = true) (v : FsSt) : f (s.setFsSt v) = f (t.setFsSt v) := by
  rw [State.setFsSt, State.setFsSt, (V.visible h).fs_eq hb]
  exact V.setFs _ h

theorem finishFs_congr (hb : s.fs.busy = true) (c : CallerId) (k : ResultCode) :
    f (s.finishFs c k) = f (t.finishFs c k) :=
  V.setFsSt_congr (V.setCaller_congr h c _) hb _

theorem fsWritten_congr (hb : s.fs.busy = true) (owner : CallerId) (buf : List Byte) :
    f (fsWritten owner buf s) = f (fsWritten owner buf t) := by
  rw [fsWritten, fsWritten, (V.visible h).draw]
  cases t.draw.write with
  | blocked => exact h
  | fail => exact V.finishFs_congr (V.setSerialOpen_congr (V.log_congr h .fs rfl) false) hb _ _
  | ok _ => exact V.setFsSt_congr (V.echoTx buf (V.log_congr h .fs rfl)) (by simpa using hb) _

theorem fsSettle_congr (hb : s.fs.busy = true) : f (fsSettle s) = f (fsSettle t) :=
  V.setFsSt_congr (V.log_congr h .fs rfl) hb _

theorem fsAttemptDone_congr (hb : s.fs.busy = true) (owner : CallerId) (n : Nat) (rx : List Byte) :
    f (fsAttemptDone owner n rx s) = f (fsAttemptDone owner n rx t) := by
  have counted : f (s.setFs { s.fs with attempt := n + 1 }) = f (t.setFs { t.fs with attempt := n + 1 }) := by
    rw [(V.visible h).fs_eq hb]
    exact V.setFs _ h
  unfold fsAttemptDone
  split
  · exact V.finishFs_congr h hb _ _
  · dsimp only
    split
    · exact V.setFsSt_congr counted hb _
    · exact V.finishFs_congr counted hb _ _

theorem fsDrained_congr (hb : s.fs.busy = true) (owner : CallerId) (n : Nat) :
    f (fsDrained owner n s) = f (fsDrained owner n t) := by
  rw [fsDrained, fsDrained, (V.visible h).draw]
  cases t.draw.drain with
  | blocked => exact h
  | fail => exact V.finishFs_congr (V.setSerialOpen_congr (V.log_congr h .fs rfl) false) hb _ _
  | ok rx => exact V.fsAttemptDone_congr (V.echoRx rx (V.log_congr h .fs rfl)) (by simpa using hb) _ _ _

theorem fsWrite_agree (hb : s.fs.busy = true) : agreeUpTo f (fsWrite s) (fsWrite t) := by
  rw [fsWrite, fsWrite, (V.visible h).fs_eq hb]
  exact agreeUpTo_reading _ fun owner => agreeUpTo_reading _ fun buf => V.fsWritten_congr h hb owner buf

theorem sendFrame_agree (bytes : List Byte) : agreeUpTo f (sendFrame bytes s) (sendFrame bytes t) := by
  unfold sendFrame
  by_cases hst : s.fs.st = .write
  · have hb := Fs.busy_of_write hst
    rw [(V.visible h).fs_eq hb]
    split
    · exact V.fsWrite_agree h hb
    · exact rfl
  · rw [if_neg (fun hs => hst hs.1), if_neg (fun ht => hst ((V.visible h).fs_st.trans ht.1))]
    exact rfl

/-! ### Commands -/

theorem exec_agree (i : Instr) : agreeUpTo f (exec i s) (exec i t) := by
  have v := V.visible h
  cases i with
  | openSerial =>
    refine V.serialClass_agree h (agreeUpTo_next ?_)
    rw [v.serialOpen, v.draw, v.issuer, v.params]
    split
    · exact V.raise_congr h _
    · cases t.draw.life with
      | fail => exact V.raise_congr (V.log_congr h _ rfl) _
      | ok _ => exact V.complete_congr (V.setSerialOpen_congr (V.log_congr h _ rfl) _) _ _
  | closeSerial =>
    refine V.serialClass_agree h (V.whenSerialOpen_agree h (agreeUpTo_next ?_))
    rw [v.draw, v.issuer]
    cases t.draw.life with
    | fail => exact V.raise_congr (V.setSerialOpen_congr (V.log_congr h _ rfl) _) _
    | ok _ => exact V.complete_congr (V.setSerialOpen_congr (V.log_congr h _ rfl) _) _ _
  | setDiag en => exact V.complete_congr (V.setDiag _ h) _ _
  | bindTrain slot addr =>
    refine agreeUpTo_next ?_
    rw [v.params]
    split
    · cases dccAddr? addr with
      | some a => exact V.complete_congr (V.setSlot _ _ h) _ _
      | none => exact V.raise_congr h _
    · exact V.raise_congr h _
  | throttle slot dir speed =>
    refine V.serialClass_agree h ?_
    rw [v.boundSlot_eq]
    cases t.boundSlot slot with
    | none => exact V.raise_congr h _
    | some sl =>
      dsimp only
      split
      · exact V.whenSerialOpen_agree h (agreeUpTo_reading _ fun a => V.startTx_congr h _)
      · exact V.raise_congr h _
  | function slot num sw =>
    refine V.serialClass_agree h ?_
    rw [v.boundSlot_eq, v.params]
    cases t.boundSlot slot with
    | none => exact V.raise_congr h _
    | some sl =>
      cases t.params.funcRow num with
      | none => exact V.raise_congr h _
      | some row =>
        exact V.whenSerialOpen_agree h (agreeUpTo_reading _ fun a => agreeUpTo_reading _ fun old =>
          V.startTx_congr (V.setSlot _ _ h) _)
  | activate addr offset => exact V.serialClass_agree h (V.whenSerialOpen_agree h (V.startTx_congr h _))
  | deactivate addr offset => exact V.serialClass_agree h (V.whenSerialOpen_agree h (V.startTx_congr h _))
  | openBus =>
    refine agreeUpTo_next ?_
    rw [v.busOpen, v.draw, v.issuer]
    split
    · exact V.raise_congr h _
    · cases t.draw.life with
      | fail => exact V.raise_congr (V.log_congr h _ rfl) _
      | ok _ => exact V.complete_congr (V.setBusOpen_congr (V.log_congr h _ rfl) _) _ _
  | closeBus =>
    refine V.busAllClass_agree h (V.whenBusOpen_agree h (agreeUpTo_next ?_))
    rw [v.draw, v.issuer]
    cases t.draw.life with
    | fail => exact V.raise_congr (V.setBusOpen_congr (V.log_congr h _ rfl) _) _
    | ok _ => exact V.complete_congr (V.setBusOpen_congr (V.log_congr h _ rfl) _) _ _
  | configure ctrl =>
    refine V.busClass_agree h fun j => V.whenBusOpen_agree h (agreeUpTo_next ?_)
    rw [v.issuer]
    exact V.start_congr (V.modifyBs j _ h fun _ _ _ _ => rfl)
  | makeSensor ctrl bank port =>
    refine agreeUpTo_next ?_
    cases portMask? port with
    | none => exact V.raise_congr h _
    | some m =>
      cases bank? bank with
      | none => exact V.raise_congr h _
      | some _ => exact V.complete_congr h _ _
  | wait ctrl bank port =>
    refine V.busClass_agree h fun j => ?_
    rw [v.issuer, v.params]
    cases portMask? port with
    | none => exact V.raise_congr h _
    | some m =>
      cases bank? bank with
      | none => exact V.raise_congr h _
      | some side =>
        exact V.whenBusOpen_agree h (V.start_congr (V.modifyBs j _ h fun _ _ _ _ => rfl))
  | frameThrottle | frameFunction | frameActivate | frameDeactivate => exact V.sendFrame_agree h _

end StepView

end Sys2Proof.Machine
end

section
/-! PROOFS. The bus sequencers and the whole step respect every view (StepView); from that the two statements. -/

namespace Sys2Proof.Machine

/-! ### Registers that agree where they have a value -/

/-- Every register that has a value in state v has one in state u. -/
def BsSt.covers (u v : BsSt) : Bool :=
  (!decide (v ≠ .idle) || decide (u ≠ .idle)) && (!v.inWait || u.inWait) && (!v.hasTmp || u.hasTmp)

/-- Contents that agree while p holds agree while q does, when q implies p. -/
theorem ite_eq_of_imp {α : Type} {p q : Bool} {x y d : α} (hpq : (!q || p) = true)
    (h : (if p then x else d) = if p then y else d) : (if q then x else d) = if q then y else d := by
  cases q
  · rfl
  · obtain rfl : p = true := hpq
    exact h

/-- A sequencer that moves to a state in which no further register has a value. -/
theorem Bs.scrub_setSt {b c : Bs} (h : b.scrub = c.scrub) {v : BsSt} (hv : b.st.covers v = true) :
    ({ b with st := v } : Bs).scrub = ({ c with st := v } : Bs).scrub := by
  simp only [BsSt.covers, Bool.and_eq_true] at hv
  obtain ⟨⟨hbusy, hwait⟩, hhas⟩ := hv
  have st_eq : b.st = c.st := by rw [← Bs.scrub_st, h, Bs.scrub_st]
  simp only [Bs.scrub, Bs.busy, ← st_eq, Bs.mk.injEq] at h ⊢
  obtain ⟨_, hdev, hcap, hind, hmask, htmp, howner⟩ := h
  exact ⟨trivial, ite_eq_of_imp hbusy hdev, ite_eq_of_imp hwait hcap, ite_eq_of_imp hwait hind,
    ite_eq_of_imp hwait hmask, ite_eq_of_imp hhas htmp, ite_eq_of_imp hbusy howner⟩

/-- In a WAIT all registers but tmp agree. -/
theorem Bs.eq_of_inWait {b c : Bs} (h : b.scrub = c.scrub) (hw : b.st.inWait = true) :
    c = { b with tmp := c.tmp } := by
  obtain ⟨st, dev, cap, ind, mask, tmp, owner⟩ := b
  obtain ⟨st', dev', cap', ind', mask', tmp', owner'⟩ := c
  obtain rfl : st = st' := congrArg Bs.st h
  have hb : st ≠ .idle := by
    rintro rfl
    cases hw
  simp_all [Bs.scrub, Bs.busy]

theorem State.setBsTmp_setBsSt (j : Nat) (x : Byte) (v : BsSt) (s : State) :
    (s.setBsTmp j x).setBsSt j v = s.modifyBs j fun b => { b with tmp := x, st := v } := by
  refine congrArg (fun l => { s with bs := l }) (List.ext_getElem? fun i => ?_)
  by_cases hi : j = i
  · subst hi
    simp [Function.comp_def]
  · simp [List.getElem?_modify_ne _ _ hi]

namespace StepView

variable {f : State → State} (V : StepView f) {s t : State} (h : f s = f t) {j : Nat} {b c : Bs}
  (hb : s.bs[j]? = some b) (hc : t.bs[j]? = some c) (hbc : b.scrub = c.scrub)
include V h hb hc hbc

/-! ### The sequencer's operations -/

theorem setBsSt_congr {v : BsSt} (hv : b.st.covers v = true) : f (s.setBsSt j v) = f (t.setBsSt j v) := by
  refine V.modifyBs j _ h fun b' c' hb' hc' => ?_
  obtain rfl := Option.some.inj (hb.symm.trans hb')
  obtain rfl := Option.some.inj (hc.symm.trans hc')
  exact Bs.scrub_setSt hbc hv

theorem setBsTmp_setBsSt_congr (hw : b.st.inWait = true) (x : Byte) (v : BsSt) :
    f ((s.setBsTmp j x).setBsSt j v) = f ((t.setBsTmp j x).setBsSt j v) := by
  rw [State.setBsTmp_setBsSt, State.setBsTmp_setBsSt]
  refine V.modifyBs j _ h fun b' c' hb' hc' => ?_
  obtain rfl := Option.some.inj (hb.symm.trans hb')
  obtain rfl := Option.some.inj (hc.symm.trans hc')
  rw [Bs.eq_of_inWait hbc hw]

theorem finishBs_congr (owner : CallerId) (k : ResultCode) :
    f (s.finishBs j owner k) = f (t.finishBs j owner k) :=
  V.setBsSt_congr (V.setCaller_congr h owner _) hb hc hbc (by simp [BsSt.covers, BsSt.inWait, BsSt.hasTmp])

/-- BUS_STEP, when the two states agree on how it goes on. -/
theorem busStep_congr {α : Type} (owner : CallerId) (r : Answer α) {ev : Reply α → Event}
    (hev : ∀ r, (ev r).isDiag = false) {k : α → State → State}
    (hk : ∀ v, f (k v (s.log (.bs j) (ev (.ok v)))) = f (k v (t.log (.bs j) (ev (.ok v))))) :
    f (busStep j owner r ev k s) = f (busStep j owner r ev k t) := by
  unfold busStep
  rw [(V.visible h).busOpen]
  split
  · cases r with
    | blocked => exact h
    | fail =>
      exact V.finishBs_congr (V.setBusOpen_congr (V.log_congr h _ (hev _)) false) hb hc hbc owner _
    | ok v => exact hk v
  · exact V.finishBs_congr h hb hc hbc owner _

/-- A BusWrite after which the sequencer moves on. -/
theorem busWrite_setBsSt_congr (owner : CallerId) (dev off x : Byte) {v : BsSt} (hv : b.st.covers v = true) :
    f (busWrite j owner dev off x (State.setBsSt j v) s) = f (busWrite j owner dev off x (State.setBsSt j v) t) := by
  rw [busWrite, busWrite, (V.visible h).draw]
  exact V.busStep_congr h hb hc hbc owner _ (fun _ => rfl) fun _ =>
    V.setBsSt_congr (V.log_congr h _ rfl) hb hc hbc hv

/-- A BusWrite after which the command ends. -/
theorem busWrite_finishBs_congr (owner : CallerId) (dev off x : Byte) :
    f (busWrite j owner dev off x (State.finishBs j owner .ok) s) =
      f (busWrite j owner dev off x (State.finishBs j owner .ok) t) := by
  rw [busWrite, busWrite, (V.visible h).draw]
  exact V.busStep_congr h hb hc hbc owner _ (fun _ => rfl) fun _ =>
    V.finishBs_congr (V.log_congr h _ rfl) hb hc hbc owner _

/-- A BusRead in a WAIT whose value goes to tmp. -/
theorem busRead_setBsTmp_congr (hw : b.st.inWait = true) (owner : CallerId) (dev off : Byte) (v : Byte → BsSt) :
    f (busRead j owner dev off (fun x q => (q.setBsTmp j x).setBsSt j (v x)) s) =
      f (busRead j owner dev off (fun x q => (q.setBsTmp j x).setBsSt j (v x)) t) := by
  rw [busRead, busRead, (V.visible h).draw]
  exact V.busStep_congr h hb hc hbc owner _ (fun _ => rfl) fun x =>
    V.setBsTmp_setBsSt_congr (V.log_congr h _ rfl) hb hc hbc hw x (v x)

/-! ### The sequencer's step -/

theorem bsAct_agree : agreeUpTo f (bsAct j b s) (bsAct j b t) := by
  have v := V.visible h
  cases hst : b.st <;> simp only [bsAct, hst]
  case idle => exact h
  case cfgDirA =>
    refine agreeUpTo_withDev b fun owner dev => ?_
    rw [v.params]
    exact V.busWrite_setBsSt_congr h hb hc hbc owner dev _ _ (by rw [hst]; rfl)
  case cfgDirB =>
    refine agreeUpTo_withDev b fun owner dev => ?_
    rw [v.params]
    exact V.busWrite_setBsSt_congr h hb hc hbc owner dev _ _ (by rw [hst]; rfl)
  case cfgPuA =>
    refine agreeUpTo_withDev b fun owner dev => ?_
    rw [v.params]
    exact V.busWrite_setBsSt_congr h hb hc hbc owner dev _ _ (by rw [hst]; rfl)
  case cfgIeA =>
    refine agreeUpTo_withDev b fun owner dev => ?_
    rw [v.params]
    exact V.busWrite_finishBs_congr h hb hc hbc owner dev _ _
  case wUnlatch =>
    refine agreeUpTo_withDev b fun owner dev => agreeUpTo_reading _ fun cap => agreeUpTo_next ?_
    rw [busRead, busRead, v.draw]
    exact V.busStep_congr h hb hc hbc owner _ (fun _ => rfl) fun _ =>
      V.setBsSt_congr (V.log_congr h _ rfl) hb hc hbc (by rw [hst]; rfl)
  case wIoffRd | wIonRd =>
    exact agreeUpTo_withDev b fun owner dev => agreeUpTo_reading _ fun ind =>
      V.busRead_setBsTmp_congr h hb hc hbc (by rw [hst]; rfl) owner dev ind _
  case wIoffWr =>
    exact agreeUpTo_withDev b fun owner dev => agreeUpTo_reading _ fun ind => agreeUpTo_reading _ fun tmp =>
      agreeUpTo_reading _ fun mask => V.busWrite_setBsSt_congr h hb hc hbc owner dev _ _ (by rw [hst]; rfl)
  case wPollRd =>
    exact agreeUpTo_withDev b fun owner dev => agreeUpTo_reading _ fun cap => agreeUpTo_reading _ fun mask =>
      V.busRead_setBsTmp_congr h hb hc hbc (by rw [hst]; rfl) owner dev cap _
  case wSleep => exact V.setBsSt_congr (V.log_congr h _ rfl) hb hc hbc (by rw [hst]; rfl)
  case wIonWr =>
    exact agreeUpTo_withDev b fun owner dev => agreeUpTo_reading _ fun ind => agreeUpTo_reading _ fun tmp =>
      agreeUpTo_reading _ fun mask => V.busWrite_finishBs_congr h hb hc hbc owner dev _ _

end StepView

/-! ### The moves -/

namespace StepView

variable {f : State → State} (V : StepView f) {s t : State} (h : f s = f t)
include V h

theorem bsTurn_agree (j : Nat) : agreeUpTo f (bsTurn j s) (bsTurn j t) := by
  have scrubbed : s.bs[j]?.map Bs.scrub = t.bs[j]?.map Bs.scrub := by
    rw [← List.getElem?_map, (V.visible h).bs, List.getElem?_map]
  unfold bsTurn
  cases hb : s.bs[j]? <;> cases hc : t.bs[j]? <;> rw [hb, hc] at scrubbed
  case none.none => exact h
  case some.some b c =>
    have hbc : b.scrub = c.scrub := Option.some.inj scrubbed
    have same_step : bsAct j c t = bsAct j b t := by rw [← bsAct_scrub, ← hbc, bsAct_scrub]
    dsimp only
    rw [same_step]
    exact V.bsAct_agree h hb hc hbc
  all_goals cases scrubbed

theorem fsTurn_agree : agreeUpTo f (fsTurn s) (fsTurn t) := by
  have v := V.visible h
  rw [fsTurn, fsTurn, ← v.fs_st]
  cases hst : s.fs.st with
  | idle => exact h
  | settle => exact V.fsSettle_congr h ((Fs.busy_iff _).2 (by simp [hst]))
  | write =>
    have hb := Fs.busy_of_write hst
    dsimp only
    rw [fsWriteTurn, fsWriteTurn, ← v.fs_eq hb]
    refine agreeUpTo_reading _ fun buf => ?_
    cases decodeFrame buf with
    | ok i => exact V.exec_agree h i
    | bad _ => exact V.fsWrite_agree h hb
  | drain =>
    have hb : s.fs.busy = true := (Fs.busy_iff _).2 (by simp [hst])
    dsimp only
    rw [fsDrain, fsDrain, ← v.fs_eq hb]
    exact agreeUpTo_reading _ fun owner => agreeUpTo_reading _ fun n => V.fsDrained_congr h hb owner n

theorem acceptTurn_agree (c : CallerId) : agreeUpTo f (acceptTurn c s) (acceptTurn c t) := by
  rw [acceptTurn, acceptTurn, (V.visible h).caller_eq c]
  rcases t.caller c with _ | w | _ | _
  · exact h
  · dsimp only
    cases decodeHcw w with
    | ok i => exact V.exec_agree (V.setIssuer_congr h c) i
    | bad _ => exact V.raise_congr (V.setIssuer_congr h c) _
  · exact h
  · exact h

theorem moveStep_agree (m : Move) : agreeUpTo f (moveStep m s) (moveStep m t) := by
  cases m with
  | issue c w => exact V.issue_congr h c w
  | accept c => exact V.acceptTurn_agree h c
  | receive c => exact V.receive_congr h c
  | fs => exact V.fsTurn_agree h
  | bs j => exact V.bsTurn_agree h j
  | reset => exact V.resetEvent h

/-- Two states that the view does not tell apart step to states it does not tell apart, or stop alike. -/
theorem step_agree : agreeUpTo f (step s) (step t) := by
  have v := V.visible h
  rw [step, step, v.params, v.nextTurn_eq]
  split
  · exact V.moveStep_agree (V.takeTurn_congr h) _
  · exact rfl

end StepView

/-- Settles O45: a state without diag and the diagnostic events is a view that every step respects. -/
theorem diagIsSideChannel : Obligations.DiagIsSideChannel := fun _ _ => sansEcho_stepView.step_agree

/-- Settles O46: a state with the registers that have no value blanked is a view that every step respects. -/
theorem noValueRegistersUnseen : Obligations.NoValueRegistersUnseen := fun _ _ => scrub_stepView.step_agree

end Sys2Proof.Machine
end

section
/-! PROOFS. What a step leaves alone: the parameters (20_memory R64), always, and the registers of a sequencer whose
turn it is not (R63, 41_sensor R158, 60_exceptions R211), except for the start of a command on an idle one, and
reset. -/

namespace Sys2Proof.Machine

/-! ### The parameters -/

@[simp] theorem fsWritten_params (owner : CallerId) (buf : List Byte) (s : State) :
    (fsWritten owner buf s).params = s.params := by
  rcases fsWritten_cases owner buf s with ⟨_, h⟩ | ⟨_, h⟩ | ⟨_, h⟩ <;> simp [h]

@[simp] theorem fsAttemptDone_params (owner : CallerId) (n : Nat) (rx : List Byte) (s : State) :
    (fsAttemptDone owner n rx s).params = s.params := by
  rcases fsAttemptDone_cases owner n rx s with ⟨_, h⟩ | ⟨_, _, h⟩ | ⟨_, _, h⟩ <;> simp [h]

@[simp] theorem fsDrained_params (owner : CallerId) (n : Nat) (s : State) :
    (fsDrained owner n s).params = s.params := by
  rcases fsDrained_cases owner n s with ⟨_, h⟩ | ⟨_, h⟩ | ⟨rx, _, h⟩ <;> simp [h]

@[simp] theorem State.issue_params (c : CallerId) (w : Word) (s : State) : (s.issue c w).params = s.params := by
  rcases State.issue_cases c w s with ⟨_, h⟩ | ⟨_, h⟩ <;> simp [h]

@[simp] theorem State.receive_params (c : CallerId) (s : State) : (s.receive c).params = s.params := by
  rcases State.receive_cases c s with ⟨_, _, h⟩ | ⟨_, h⟩ <;> simp [h]

theorem Accepted.params_eq {i : Instr} {s t : State} (h : Accepted i s t) : t.params = s.params := by
  cases h with
  | frame => exact fsWritten_params _ _ s
  | held | answered | serial | bus | diag | bind | send | sendFn | onBs => rfl

theorem BsStepped.params_eq {j : Nat} {b : Bs} {s t : State} (h : BsStepped j b s t) : t.params = s.params := by
  cases h <;> rfl

theorem Stepped.params_eq {s u t : State} (h : Stepped s u t) : t.params = u.params := by
  cases h with
  | issue c w => exact u.issue_params c w
  | receive c => exact u.receive_params c
  | accept c w i t _ _ _ _ ha => exact ha.params_eq
  | fsWrite => exact fsWritten_params _ _ u
  | fsDrain => exact fsDrained_params _ _ u
  | bs j b t _ _ ht => exact ht.params_eq
  | noHeld | illegal | fsIdle | fsSettle | noBs | reset => rfl

/-- Settles O42: no move writes the parameters, and the step checks them first. -/
theorem parametersFixed : Obligations.ParametersFixed := fun s =>
  ⟨fun _ hstep => (step_stepped hstep).params_eq.trans s.takeTurn_params, fun hp => by simp [step, hp]⟩

/-! ### FS -/

@[simp] theorem State.issue_fs (c : CallerId) (w : Word) (s : State) : (s.issue c w).fs = s.fs := by
  rcases State.issue_cases c w s with ⟨_, h⟩ | ⟨_, h⟩ <;> simp [h]

@[simp] theorem State.receive_fs (c : CallerId) (s : State) : (s.receive c).fs = s.fs := by
  rcases State.receive_cases c s with ⟨_, _, h⟩ | ⟨_, h⟩ <;> simp [h]

/-- A host command's acceptance changes FS only by a send, which starts on the idle FS (R124). -/
theorem Accepted.idle_of_fs_ne {i : Instr} {s t : State} (h : Accepted i s t)
    (hi : ∀ bytes, encode i ≠ .frame bytes) (hne : t.fs ≠ s.fs) : s.fs.st = .idle := by
  cases h with
  | send _ hidle => exact hidle
  | sendFn _ _ _ _ _ _ hidle => exact hidle
  | frame bytes hf => exact absurd hf (hi bytes)
  | held | answered | serial | bus | diag | bind | onBs => exact absurd rfl hne

theorem BsStepped.fs_eq {j : Nat} {b : Bs} {s t : State} (h : BsStepped j b s t) : t.fs = s.fs := by
  cases h <;> rfl

theorem Stepped.fs_moved {s u t : State} (h : Stepped s u t) (hne : t.fs ≠ u.fs) :
    s.nextTurn.move = .fs ∨ s.nextTurn.move = .reset ∨
      (u.fs.st = .idle ∧ ∃ c, s.nextTurn.move = .accept c) := by
  cases h with
  | fsIdle hm | fsWrite hm | fsSettle hm | fsDrain hm => exact .inl hm
  | reset hm => exact .inr (.inl hm)
  | accept c w i t hm _ hd _ ha =>
    exact .inr (.inr ⟨ha.idle_of_fs_ne (decodeHcw_notFrame hd) hne, c, hm⟩)
  | issue c w => exact absurd (u.issue_fs c w) hne
  | receive c => exact absurd (u.receive_fs c) hne
  | bs j b t _ _ ht => exact absurd ht.fs_eq hne
  | noHeld | illegal | noBs => exact absurd rfl hne

/-! ### The bus sequencers -/

/-- An acceptance changes a bus sequencer only by a command that starts on it, and it is idle then (R145, R150). -/
theorem Accepted.idle_of_bs_ne {i : Instr} {s t : State} (h : Accepted i s t) {j : Nat}
    (hne : t.bs[j]? ≠ s.bs[j]?) : ∃ b, s.bs[j]? = some b ∧ b.st = .idle := by
  cases h with
  | onBs k b new hk hi =>
    by_cases hkj : k = j
    · exact ⟨b, hkj ▸ hk, hi⟩
    · exact absurd (List.getElem?_set_ne hkj) hne
  | frame => exact absurd (by simp) hne
  | held | answered | serial | bus | diag | bind | send | sendFn => exact absurd rfl hne

theorem Stepped.bs_moved {s u t : State} (h : Stepped s u t) {j : Nat} (hne : t.bs[j]? ≠ u.bs[j]?) :
    s.nextTurn.move = .bs j ∨ s.nextTurn.move = .reset ∨
      ∃ c b, s.nextTurn.move = .accept c ∧ u.bs[j]? = some b ∧ b.st = .idle := by
  cases h with
  | bs k b t hm _ ht =>
    by_cases hkj : k = j
    · exact .inl (hkj ▸ hm)
    · exact absurd (ht.bs_other hkj) hne
  | reset hm => exact .inr (.inl hm)
  | accept c w i t hm _ _ _ ha =>
    obtain ⟨b, hb, hi⟩ := ha.idle_of_bs_ne hne
    exact .inr (.inr ⟨c, b, hm, hb, hi⟩)
  | issue | receive | fsWrite | fsDrain => exact absurd (by simp) hne
  | noHeld | illegal | fsIdle | fsSettle | noBs => exact absurd rfl hne

/-- Settles O50: of the other moves, only an acceptance writes a sequencer's registers, and only while it is idle. -/
theorem sequencersMoveThemselves : Obligations.SequencersMoveThemselves := by
  intro s t hstep
  rw [← s.takeTurn_fs, ← s.takeTurn_bs]
  exact ⟨(step_stepped hstep).fs_moved, fun _ => (step_stepped hstep).bs_moved⟩

end Sys2Proof.Machine
end

section
/-! PROOFS. What a step's new history entries can be, said once (Appended), and from that the two statements about
the links: which bus accesses the block makes (20_memory R55), and which bytes it sends (R50, R51). -/

namespace Sys2Proof.Machine

/-! ### New entries -/

/-- The event is no bus access and no serial write. -/
def Event.OffLinks (e : Event) : Prop :=
  (∀ p, e.busAllowed p = true) ∧ ∀ bytes r, e ≠ .serWrite bytes r

theorem Event.OffLinks.of_isDiag {e : Event} (h : e.isDiag = true) : e.OffLinks := by
  cases e <;> simp_all [Event.isDiag, Event.OffLinks, Event.busAllowed]

/-- What an entry that the step from s appends can be: FS's SerWrite of its buffer, a bus sequencer's event, or an
entry that touches neither link. -/
inductive Appended (s : State) : Entry → Prop where
  | offLinks (x : Entry) (hx : x.event.OffLinks) : Appended s x
  | serWrite (r : Reply Unit) (hm : s.nextTurn.move = .fs) (hs : s.fs.st = .write) :
      Appended s ⟨.fs, .serWrite s.fs.buf r⟩
  | bus (j : Nat) (b : Bs) (e : Event) (hj : s.bs[j]? = some b) (he : BsEvent s.params b e) :
      Appended s ⟨.bs j, e⟩

/-- Of an event logged with its echo (R121), the new entries are the event and diagnostic events. -/
theorem mem_newEvents_log_echo {s t : State} {a : Agent} {e : Event} {echo : List Entry} {x : Entry}
    (hx : x ∈ newEvents s t) (hecho : ∀ y ∈ echo, y.event.isDiag = true)
    (h : t.history = (s.log a e).history ++ if s.diag then echo else []) : x = ⟨a, e⟩ ∨ x.event.OffLinks := by
  have mem_event_or_echo : x = ⟨a, e⟩ ∨ s.diag = true ∧ x ∈ echo := by
    simpa [newEvents, h] using hx
  exact mem_event_or_echo.imp_right fun ⟨_, hmem⟩ => .of_isDiag (hecho x hmem)

theorem fsWritten_newEvents {owner : CallerId} {buf : List Byte} {s : State} {x : Entry}
    (hx : x ∈ newEvents s (fsWritten owner buf s)) :
    (∃ r, x = ⟨.fs, .serWrite buf r⟩) ∨ x.event.OffLinks := by
  rcases fsWritten_cases owner buf s with ⟨_, h⟩ | ⟨_, h⟩ | ⟨_, h⟩ <;> rw [h] at hx
  · simp [newEvents] at hx
  · exact .inl ⟨.fail, by simpa [newEvents] using hx⟩
  · exact (mem_newEvents_log_echo (echo := [⟨.fs, .diagTx buf⟩]) hx (by simp [Event.isDiag])
      (State.echoTx_history buf _)).imp_left fun hx => ⟨.ok (), hx⟩

theorem fsDrained_newEvents {owner : CallerId} {n : Nat} {s : State} {x : Entry}
    (hx : x ∈ newEvents s (fsDrained owner n s)) : x.event.OffLinks := by
  have drained : ∀ r, x = ⟨.fs, .serDrain r⟩ → x.event.OffLinks := by
    rintro r rfl
    exact ⟨fun _ => rfl, by simp⟩
  rcases fsDrained_cases owner n s with ⟨_, h⟩ | ⟨_, h⟩ | ⟨rx, _, h⟩ <;> rw [h] at hx
  · simp [newEvents] at hx
  · exact drained .fail (by simpa [newEvents] using hx)
  · refine (mem_newEvents_log_echo (echo := rx.map fun b => ⟨.fs, .diagRx b⟩) hx (by simp [Event.isDiag]) ?_).elim
      (drained (.ok rx)) id
    rw [fsAttemptDone_history]
    exact State.echoRx_history rx _

/-- A host command's acceptance makes no bus access and no serial write: a sequencer does that later. -/
theorem Accepted.newEvents_offLinks {i : Instr} {s t : State} (h : Accepted i s t)
    (hi : ∀ bytes, encode i ≠ .frame bytes) {x : Entry} (hx : x ∈ newEvents s t) : x.event.OffLinks := by
  cases h with
  | serial e _ _ _ _ hb hw | bus e _ _ _ hb hw =>
    obtain rfl : x = ⟨.host s.issuer, e⟩ := by simpa [newEvents] using hx
    exact ⟨hb, hw⟩
  | frame bytes hf => exact absurd hf (hi bytes)
  | held | answered | diag | bind | send | sendFn | onBs => simp [newEvents] at hx

/-- A bus sequencer's step appends only an event of its state. -/
theorem BsStepped.newEvents_bsEvent {j : Nat} {b : Bs} {s t : State} (h : BsStepped j b s t) {x : Entry}
    (hx : x ∈ newEvents s t) : ∃ e, BsEvent s.params b e ∧ x = ⟨.bs j, e⟩ := by
  cases h with
  | same | lost => simp [newEvents] at hx
  | failed e _ _ he | moved e _ _ _ he | done e _ he => exact ⟨e, he, by simpa [newEvents] using hx⟩

theorem newEvents_takeTurn (s t : State) : newEvents s.takeTurn t = newEvents s t := by
  simp [newEvents]

/-- Everything a step can append to the history. -/
theorem step_appended {s t : State} (h : step s = .next t) {x : Entry} (hx : x ∈ newEvents s t) :
    Appended s x := by
  rw [← newEvents_takeTurn] at hx
  cases step_stepped h with
  | accept c w i t _ _ hd _ ha => exact .offLinks x (ha.newEvents_offLinks (decodeHcw_notFrame hd) hx)
  | fsWrite hm hs =>
    rcases fsWritten_newEvents hx with ⟨r, rfl⟩ | hx
    · simpa using Appended.serWrite r hm (by simpa using hs)
    · exact .offLinks x hx
  | fsSettle =>
    obtain rfl : x = ⟨.fs, .settle settleMs⟩ := by simpa [newEvents, Machine.fsSettle] using hx
    exact .offLinks _ ⟨fun _ => rfl, by simp⟩
  | fsDrain => exact .offLinks x (fsDrained_newEvents hx)
  | bs j b t _ hj ht =>
    obtain ⟨e, he, rfl⟩ := ht.newEvents_bsEvent hx
    exact .bus j b e (by simpa using hj) (by simpa using he)
  | issue | receive | noHeld | illegal | fsIdle | noBs | reset => simp [newEvents] at hx

/-! ### The bus -/

/-- With the registers a WAIT holds as the invariant has them, a sequencer accesses R55's registers alone. -/
theorem BsEvent.busAllowed {p : Params} {b : Bs} {e : Event} (h : BsEvent p b e)
    (hw : b.st.inWait = true → b.ind = p.regOff .b .data ∧
      (b.cap = p.regOff .a .cap ∨ b.cap = p.regOff .b .cap)) : e.busAllowed p = true := by
  cases h with
  | sleep => rfl
  | cap r hs =>
    obtain ⟨_, hcap | hcap⟩ := hw hs <;> simp [Event.busAllowed, hcap]
  | indRead r hs | indWrite v r hs =>
    obtain ⟨hind, _⟩ := hw hs
    simp [Event.busAllowed, hind]
  | dirA | dirB | puA | ieA => simp [Event.busAllowed]

/-- Settles O48: only a bus sequencer makes bus accesses, and in a WAIT the invariant says what its offsets are. -/
theorem busAccessesAllowed : Obligations.BusAccessesAllowed := by
  intro s t hinv hstep x hx
  obtain ⟨_, _, _, _, hwaits⟩ := hinv
  cases step_appended hstep hx with
  | offLinks _ hoff =>
    obtain ⟨hallowed, _⟩ := hoff
    exact hallowed s.params
  | serWrite => rfl
  | bus j b e hj he =>
    refine he.busAllowed fun hin => ?_
    obtain ⟨_, hoffsets⟩ := hwaits b (List.mem_of_getElem? hj) hin
    exact hoffsets

/-! ### The serial link -/

theorem BsEvent.ne_serWrite {p : Params} {b : Bs} {e : Event} (h : BsEvent p b e) (bytes : List Byte)
    (r : Reply Unit) : e ≠ .serWrite bytes r := by
  cases h <;> simp

/-- Settles O49: of the entries a step can append, only FS's at its WRITE is a serial write, and that is of
fs.buf. -/
theorem serialWritesAreTheBuffer : Obligations.SerialWritesAreTheBuffer := by
  intro s t x bytes r hstep hx hw
  cases step_appended hstep hx with
  | offLinks _ hoff =>
    obtain ⟨_, hne⟩ := hoff
    exact absurd hw (hne bytes r)
  | serWrite r' hm hs =>
    obtain ⟨rfl, rfl⟩ := Event.serWrite.inj hw
    exact ⟨hm, rfl, hs, rfl⟩
  | bus j b e _ he => exact absurd hw (he.ne_serWrite bytes r)

end Sys2Proof.Machine
end

section
/-! PROOFS. The encoder and the decoder are inverse to each other (30_encoding R71, R86 to R88). The frames' half
of encode-after-decode is encode_of_decodeFrame. -/

namespace Sys2Proof.Machine

/-! ### Command words -/

theorem ofNat_eq_of_toNat {w n : Nat} {x : BitVec w} (h : x.toNat = n) : BitVec.ofNat w n = x := by
  rw [← h, BitVec.ofNat_toNat, BitVec.setWidth_eq]

/-- A command is read back from its word: each field of the word is the operand put there. -/
theorem decodeHcw_of_encode {i : Instr} {w : Word} (h : encode i = .hcw w) : decodeHcw w = .ok i := by
  cases i
  case frameThrottle | frameFunction | frameActivate | frameDeactivate => cases h
  all_goals
    cases h
    simp (disch := omega) only [decodeHcw, Decoded.ifZero, BitVec.extractLsb'_append_eq_of_le,
      BitVec.extractLsb'_append_eq_of_add_le]
    simp

/-- A word that decodes is the word of its command: the op, the operands and the reserved bits, which are 0, are
adjacent fields of the word, and put together again they are the whole of it. -/
theorem encode_of_decodeHcw {w : Word} {i : Instr} (h : decodeHcw w = .ok i) : encode i = .hcw w := by
  have whole_word : w.extractLsb' 0 32 = w := BitVec.extractLsb'_eq_self
  unfold decodeHcw at h
  split at h
  -- The rows without reserved bits: BIND_TRAIN, MAKE_SENSOR and WAIT.
  case h_4 | h_12 | h_13 =>
    rename_i op_eq
    cases h
    simp only [encode, ofNat_eq_of_toNat op_eq]
    simp (disch := rfl) only [BitVec.extractLsb'_append_extractLsb'_eq_extractLsb']
    exact congrArg Code.hcw whole_word
  case h_14 => cases h
  all_goals
    rename_i op_eq
    obtain ⟨reserved_eq, rfl⟩ := Decoded.ifZero_ok h
    simp only [encode, ofNat_eq_of_toNat op_eq, ← reserved_eq, Dir.bit_ofBit, Switch.bit_ofBit]
    simp (disch := rfl) only [BitVec.extractLsb'_append_extractLsb'_eq_extractLsb']
    exact congrArg Code.hcw whole_word

/-! ### Both kinds of code -/

/-- A well-formed frame is read back from its bytes. -/
theorem decodeFrame_of_encode {i : Instr} {bytes : List Byte} (h : encode i = .frame bytes)
    (hw : i.wellFormed = true) : decodeFrame bytes = .ok i := by
  cases i with
  | frameThrottle addr dir speed c =>
    cases h
    exact decodeFrame_throttle addr dir speed c
  | frameFunction g addr v c =>
    cases h
    simp only [Instr.wellFormed, Bool.and_eq_true, bne_iff_ne] at hw
    obtain ⟨⟨_, not_throttle⟩, not_accessory⟩ := hw
    exact decodeFrame_function not_throttle not_accessory addr v c
  | frameActivate a o c =>
    cases h
    exact decodeFrame_activate a o c
  | frameDeactivate a o c =>
    cases h
    exact decodeFrame_deactivate a o c
  | _ => cases h

/-- Settles O2: a command is read back from its word, a well-formed frame from its bytes. -/
theorem decodeOfEncode : Obligations.DecodeOfEncode := by
  intro i hw
  cases he : encode i with
  | hcw w => exact decodeHcw_of_encode he
  | frame bytes => exact decodeFrame_of_encode he hw

/-- Settles O3: a word that decodes is its command's word, bytes that decode are their frame's bytes. -/
theorem encodeOfDecode : Obligations.EncodeOfDecode := by
  intro code i h
  cases code with
  | hcw w => exact encode_of_decodeHcw h
  | frame bytes => exact encode_of_decodeFrame h

/-- Settles O1: each of the nine words is computed. -/
theorem tableWordsDecode : Obligations.TableWordsDecode := by
  unfold Obligations.TableWordsDecode
  decide

end Sys2Proof.Machine
end

section
/-! PROOFS. The command words of R71's table: a row's match and mask say the same as the op and the reserved bits
that the decoder looks at, so a word decodes when it matches a row, and is answered as illegal (R74) when it does
not. -/

namespace Sys2Proof.Machine

/-! ### The rows as fields -/

/-- A row of R71's table: its op, and its reserved bits, which are one field of `len` bits at bit `lo`. -/
structure HcwRow where
  op  : Byte
  lo  : Nat
  len : Nat

/-- The match value of a row: its op, and zeros. -/
def HcwRow.matchWord (r : HcwRow) : Word := r.op ++ 0#24

/-- The mask of a row: ones at the op and at the reserved bits. -/
def HcwRow.mask (r : HcwRow) : Word :=
  (BitVec.allOnes 8 ++ 0#24) ||| ((BitVec.allOnes r.len).setWidth 32 <<< r.lo)

/-- The word has the row's op, and its reserved bits are 0. -/
def HcwRow.Fits (r : HcwRow) (w : Word) : Prop :=
  w.extractLsb' 24 8 = r.op ∧ w.extractLsb' r.lo r.len = 0#r.len

/-- The thirteen rows, in the order of hcwTable. -/
def hcwRows : List HcwRow :=
  [⟨0x01#8, 0, 24⟩, ⟨0x02#8, 0, 24⟩, ⟨0x03#8, 1, 23⟩, ⟨0x10#8, 0, 0⟩, ⟨0x11#8, 9, 7⟩, ⟨0x12#8, 1, 7⟩,
   ⟨0x13#8, 16, 8⟩, ⟨0x14#8, 16, 8⟩, ⟨0x20#8, 0, 24⟩, ⟨0x21#8, 0, 24⟩, ⟨0x22#8, 8, 16⟩, ⟨0x23#8, 0, 0⟩,
   ⟨0x24#8, 0, 0⟩]

theorem hcwTable_eq : hcwTable = hcwRows.map fun r => (r.matchWord, r.mask) := by decide

/-! ### A row's match and mask -/

theorem HcwRow.matchWord_bit (r : HcwRow) (k : Nat) :
    r.matchWord.getLsbD k = if k < 24 then false else r.op.getLsbD (k - 24) := by
  rw [HcwRow.matchWord, BitVec.getLsbD_append, BitVec.getLsbD_zero]

theorem HcwRow.mask_bit {r : HcwRow} (h : r.lo + r.len ≤ 24) (k : Nat) :
    r.mask.getLsbD k = (decide (24 ≤ k ∧ k < 32) || decide (r.lo ≤ k ∧ k < r.lo + r.len)) := by
  have op_bit : (BitVec.allOnes 8 ++ 0#24).getLsbD k = decide (24 ≤ k ∧ k < 32) := by
    rw [BitVec.getLsbD_append, BitVec.getLsbD_allOnes]
    grind
  rw [HcwRow.mask, BitVec.getLsbD_or, op_bit]
  simp
  grind

theorem HcwRow.and_mask_eq_iff {r : HcwRow} (h : r.lo + r.len ≤ 24) (w : Word) :
    w &&& r.mask = r.matchWord ↔ r.Fits w := by
  constructor
  · intro matched
    have bits (k : Nat) : (w.getLsbD k && r.mask.getLsbD k) = r.matchWord.getLsbD k := by
      rw [← matched, BitVec.getLsbD_and]
    simp only [HcwRow.mask_bit h, HcwRow.matchWord_bit] at bits
    refine ⟨BitVec.eq_of_getLsbD_eq fun k hk => ?_, BitVec.eq_of_getLsbD_eq fun k hk => ?_⟩
    · have op_bit := bits (24 + k)
      grind
    · have reserved_bit := bits (r.lo + k)
      grind
  · rintro ⟨op_eq, reserved_eq⟩
    refine BitVec.eq_of_getLsbD_eq fun k hk => ?_
    have reserved_bit := congrArg (BitVec.getLsbD · (k - r.lo)) reserved_eq
    simp only [BitVec.getLsbD_extractLsb', BitVec.getLsbD_zero] at reserved_bit
    rw [BitVec.getLsbD_and, HcwRow.mask_bit h, HcwRow.matchWord_bit, ← op_eq, BitVec.getLsbD_extractLsb']
    grind

theorem inHcwTable_iff (w : Word) : inHcwTable w = true ↔ ∃ r ∈ hcwRows, r.Fits w := by
  have below_op : ∀ r ∈ hcwRows, r.lo + r.len ≤ 24 := by decide
  simp only [inHcwTable, hcwTable_eq, List.any_map, List.any_eq_true, Function.comp, beq_iff_eq]
  exact exists_congr fun r => and_congr_right fun hr => HcwRow.and_mask_eq_iff (below_op r hr) w

/-! ### The decoder's rows -/

theorem Decoded.exists_ifZero_ok {n : Nat} (r : BitVec n) (i : Instr) :
    (∃ j, Decoded.ifZero r i = .ok j) ↔ r = 0#n := by
  unfold Decoded.ifZero
  split <;> simp_all

/-- Each arm of the decoder has the op of one row, and asks that the row's reserved bits are 0. -/
theorem decodeHcw_ok_iff (w : Word) : (∃ i, decodeHcw w = .ok i) ↔ ∃ r ∈ hcwRows, r.Fits w := by
  simp only [hcwRows, HcwRow.Fits, List.mem_cons, List.not_mem_nil, or_false, exists_eq_or_imp, exists_eq_left,
    BitVec.toNat_eq (x := w.extractLsb' 24 8)]
  unfold decodeHcw
  split
  case h_14 => simp_all
  all_goals
    rename_i op_eq
    simp [op_eq, Decoded.exists_ifZero_ok]

/-- Settles O4: to decode and to match are both to fit a row. -/
theorem decodedWordsMatchTable : Obligations.DecodedWordsMatchTable := fun w =>
  (decodeHcw_ok_iff w).trans (inHcwTable_iff w).symm

/-! ### A held word is considered -/

theorem decodeHcw_bad {w : Word} (h : inHcwTable w = false) : ∃ e, decodeHcw w = .bad e := by
  cases hd : decodeHcw w with
  | ok i => simp [(decodedWordsMatchTable w).1 ⟨i, hd⟩] at h
  | bad e => exact ⟨e, rfl⟩

/-- Settles O5: a word that matches no row does not decode, and an acceptance answers it at once. -/
theorem illegalWordAnswered : Obligations.IllegalWordAnswered := by
  intro s c w held illegal
  obtain ⟨e, bad⟩ := decodeHcw_bad illegal
  simp only [moveStep, acceptTurn, held, bad]
  rfl

/-- Settles O7: taking the turn leaves the caller's held word, which the acceptance decodes and runs. -/
theorem stepRunsHeldCommand : Obligations.StepRunsHeldCommand := by
  intro s c w i params_ok turn held decoded
  simp only [step, params_ok, if_true, turn, moveStep, acceptTurn, State.takeTurn_caller, held, decoded]

/-! ### Holds -/

theorem serialClass_busy {s : State} (h : s.fs.st ≠ .idle) (k : Result) : serialClass s k = .next s := by
  simp [serialClass, State.fsIdle, h]

theorem busClass_busy {s : State} (h : ∀ b ∈ s.bs, b.st ≠ .idle) (k : Nat → Result) :
    busClass s k = .next s := by
  have none_idle : s.lowestIdleBs = none := by simpa [State.lowestIdleBs] using h
  simp [busClass, none_idle]

theorem busAllClass_busy {s : State} (h : ∃ b ∈ s.bs, b.st ≠ .idle) (k : Result) :
    busAllClass s k = .next s := by
  have not_all_idle : s.busAllIdle = false := by simpa [State.busAllIdle] using h
  simp [busAllClass, not_all_idle]

/-- Settles O31: each of these commands runs in its class, and a class holds it while its resource is busy. -/
theorem heldWhileBusy : Obligations.HeldWhileBusy := fun _ =>
  ⟨fun h => ⟨serialClass_busy h _, serialClass_busy h _, fun _ _ _ => serialClass_busy h _,
      fun _ _ _ => serialClass_busy h _, fun _ _ => ⟨serialClass_busy h _, serialClass_busy h _⟩⟩,
    fun h => ⟨fun _ => busClass_busy h _, fun _ _ _ => busClass_busy h _⟩, fun h => busAllClass_busy h _⟩

end Sys2Proof.Machine
end

section
/-! PROOFS. Result words (30_encoding R80): the layout and the code numbers, and that every pending and every
returned result keeps the layout. The invariant reads the caller table and the returned results alone, so a rule
for an operation takes what the operation does to those two. -/

namespace Sys2Proof.Machine

/-! ### The layout -/

theorem hrw_toNat (k : ResultCode) (d : Byte) : (hrw k d).toNat = 256 * d.toNat + k.byte.toNat := by
  rw [hrw, append_toNat, append_toNat]
  simp
  omega

theorem ResultCode.byte_le (k : ResultCode) : k.byte.toNat ≤ 5 := by
  cases k <;> decide

/-- Settles O32: a result word as a number is its data above its code. -/
theorem resultWordFields : Obligations.ResultWordFields := by
  refine ⟨fun k d => ⟨?_, ?_⟩, rfl, rfl, rfl, rfl, rfl, rfl⟩
  · simp [hrw_toNat]
  · simpa [hrw_toNat] using k.byte_le

/-- R80's layout holds of every word the block answers with: data is given only with OK. -/
theorem legalResult_hrw {k : ResultCode} {d : Byte} (h : d = 0#8 ∨ k = .ok) : legalResult (hrw k d) = true := by
  have code_eq : (hrw k d).extractLsb' 0 8 = k.byte := BitVec.extractLsb'_append_eq_right
  have data_eq : (hrw k d).extractLsb' 8 8 = d := by
    simp (disch := omega) only [hrw, BitVec.extractLsb'_append_eq_of_le, BitVec.extractLsb'_append_eq_of_add_le]
    simp
  have high_eq : (hrw k d).extractLsb' 16 16 = 0#16 := by
    simp (disch := omega) only [hrw, BitVec.extractLsb'_append_eq_of_le]
    simp
  have data_only_with_ok : d = 0#8 ∨ k.byte = 0#8 := h.imp_right (by rintro rfl; rfl)
  simpa [legalResult, code_eq, data_eq, high_eq, k.byte_le] using data_only_with_ok

/-! ### The rules -/

section
variable {s t : State} (h : s.resultsOk)
include h

theorem State.resultsOk.of_eq (hc : t.callers = s.callers) (hr : t.results = s.results) : t.resultsOk := by
  rwa [State.resultsOk, hc, hr]

theorem State.resultsOk.put {c : CallerId} {v : CallerSt} (hv : ∀ w, v = .done w → legalResult w = true)
    (hc : t.callers = Callers.put c v s.callers) (hr : t.results = s.results) : t.resultsOk := by
  obtain ⟨pending, returned⟩ := h
  refine ⟨fun e he => ?_, hr ▸ returned⟩
  rcases Callers.mem_put (hc ▸ he) with rfl | old
  · exact hv
  · exact pending e old

theorem State.resultsOk.answer {c : CallerId} {k : ResultCode} {d : Byte} (hd : d = 0#8 ∨ k = .ok)
    (hc : t.callers = Callers.put c (.done (hrw k d)) s.callers) (hr : t.results = s.results) : t.resultsOk := by
  refine h.put (fun w hw => ?_) hc hr
  cases hw
  exact legalResult_hrw hd

theorem State.resultsOk.receive (c : CallerId) : (s.receive c).resultsOk := by
  obtain ⟨pending, returned⟩ := h
  rcases State.receive_cases c s with ⟨r, hd, hreceive⟩ | ⟨_, hreceive⟩ <;> rw [hreceive]
  · refine ⟨fun e he => pending e (Callers.mem_erase he), fun e he => ?_⟩
    rcases List.mem_append.1 he with old | new
    · exact returned e old
    · obtain rfl := List.mem_singleton.1 new
      exact pending _ (Callers.mem_of_get hd) r rfl
  · exact ⟨pending, returned⟩

theorem State.resultsOk.issue (c : CallerId) (w : Word) : (s.issue c w).resultsOk := by
  rcases State.issue_cases c w s with ⟨_, hissue⟩ | ⟨_, hissue⟩ <;> rw [hissue]
  · exact h.put (v := .held w) (by simp) rfl rfl
  · exact h

/-! ### The steps -/

theorem fsWritten_resultsOk (owner : CallerId) (buf : List Byte) : (fsWritten owner buf s).resultsOk := by
  rcases fsWritten_cases owner buf s with ⟨_, hw⟩ | ⟨_, hw⟩ | ⟨_, hw⟩ <;> rw [hw]
  · exact h
  · exact h.answer (k := .transportError) (.inl rfl) rfl rfl
  · exact h.of_eq (by simp) (by simp)

theorem fsAttemptDone_resultsOk (owner : CallerId) (n : Nat) (rx : List Byte) :
    (fsAttemptDone owner n rx s).resultsOk := by
  rcases fsAttemptDone_cases owner n rx s with ⟨_, hd⟩ | ⟨_, _, hd⟩ | ⟨_, _, hd⟩ <;> rw [hd]
  · exact h.answer (k := .ok) (.inl rfl) rfl rfl
  · exact h
  · exact h.answer (k := .protocolError) (.inl rfl) rfl rfl

theorem fsDrained_resultsOk (owner : CallerId) (n : Nat) : (fsDrained owner n s).resultsOk := by
  rcases fsDrained_cases owner n s with ⟨_, hd⟩ | ⟨_, hd⟩ | ⟨rx, _, hd⟩ <;> rw [hd]
  · exact h
  · exact h.answer (k := .transportError) (.inl rfl) rfl rfl
  · exact fsAttemptDone_resultsOk (h.of_eq (by simp) (by simp)) owner n rx

theorem Accepted.resultsOk {i : Instr} (ha : Accepted i s t) : t.resultsOk := by
  cases ha with
  | held => exact h
  | answered k d hd => exact h.answer hd rfl rfl
  | serial _ _ k | bus _ _ k => exact h.answer (k := k) (.inl rfl) rfl rfl
  | diag | bind => exact h.answer (k := .ok) (.inl rfl) rfl rfl
  | send | sendFn | onBs => exact h.put (v := .running) (by simp) rfl rfl
  | frame => exact fsWritten_resultsOk h _ _

theorem BsStepped.resultsOk {j : Nat} {b : Bs} (hb : BsStepped j b s t) : t.resultsOk := by
  cases hb with
  | same | moved => exact h
  | lost | failed => exact h.answer (k := .busError) (.inl rfl) rfl rfl
  | done => exact h.answer (k := .ok) (.inl rfl) rfl rfl

end

theorem Stepped.resultsOk {s u t : State} (hs : Stepped s u t) (h : u.resultsOk) : t.resultsOk := by
  cases hs with
  | issue c w => exact h.issue c w
  | receive c => exact h.receive c
  | accept c w i t _ _ _ _ ha => exact Accepted.resultsOk (s := u.setIssuer c) h ha
  | illegal => exact h.answer (k := .illegalCommand) (.inl rfl) rfl rfl
  | fsWrite => exact fsWritten_resultsOk h _ _
  | fsDrain => exact fsDrained_resultsOk h _ _
  | bs j b t _ _ ht => exact BsStepped.resultsOk h ht
  | reset => exact ⟨by simp, h.2⟩
  | noHeld | fsIdle | fsSettle | noBs => exact h

/-- Settles O33: a step answers only with hrw of a code and of data that is 0 or beside OK, and returns only what
was pending. -/
theorem resultWordsStayLegal : Obligations.ResultWordsStayLegal := fun s _ hs hstep =>
  (step_stepped hstep).resultsOk (hs.of_eq s.takeTurn_callers s.takeTurn_results)

end Sys2Proof.Machine
end

section
/-! PROOFS. The wire frames (30_encoding R86 to R91): how FS writes one, what holds of the bytes of every one, and how
a reader of the stream classifies the ones the commands build. -/

namespace Sys2Proof.Machine

/-! ### The bytes of a frame as numbers -/

theorem ofNat_addrHi (a : DccAddr) : BitVec.ofNat 8 (a.toNat / 256) = addrHi a :=
  ofNat_eq_of_toNat (addrHi_toNat a)

theorem ofNat_addrLo (a : DccAddr) : BitVec.ofNat 8 (a.toNat % 256) = addrLo a :=
  ofNat_eq_of_toNat (addrLo_toNat a)

theorem addrHi_lt (a : DccAddr) : (addrHi a).toNat < 64 := by
  rw [addrHi_toNat]
  omega

theorem ofNat_speed_byte (d : Dir) (speed : BitVec 7) :
    BitVec.ofNat 8 ((if d = .forward then 128 else 0) + speed.toNat) = d.bit ++ speed := by
  apply ofNat_eq_of_toNat
  rw [append_toNat]
  cases d <;> rfl

theorem accessory_b2_toNat (o : BitVec 6) (x : BitVec 1) :
    (1#1 ++ o ++ x).toNat = 128 + 2 * o.toNat + x.toNat := by
  rw [append_toNat, append_toNat]
  simp
  omega

/-! ### FS's WRITE of a frame -/

/-- s after FS's SerWrite of its buffer has completed (R120, R121): the event, its echo, and FS at SETTLE. -/
def State.frameSent (s : State) : State :=
  { s with
    fs := { s.fs with st := .settle }
    history := s.history ++ ⟨.fs, .serWrite s.fs.buf (.ok ())⟩ ::
      (if s.diag = true then [⟨.fs, .diagTx s.fs.buf⟩] else []) }

theorem fsWritten_ok {s : State} (hd : s.draw.write = .ok ()) (owner : CallerId) :
    fsWritten owner s.fs.buf s = s.frameSent := by
  cases hdiag : s.diag <;>
    simp [fsWritten, hd, hdiag, State.echoTx, State.frameSent, State.setFsSt, State.setFs, State.log]

/-- An instruction that is the frame in fs.buf goes out when FS is at WRITE and the write is answered ok. -/
theorem exec_of_frame_in_buffer {i : Instr} {s : State} (hs : s.fs.st = .write) (hd : s.draw.write = .ok ())
    (hi : encode i = .frame s.fs.buf) : exec i s = .next s.frameSent := by
  rw [exec_of_frame hi, sendFrame, if_pos ⟨hs, rfl⟩, fsWrite_busy (Fs.busy_of_write hs), fsWritten_ok hd]

/-- Settles O17: the bytes given as numbers are those of the frame's encoding, so the frame is the one in fs.buf. -/
theorem frameGoesOut : Obligations.FrameGoesOut := by
  intro s hs hd
  refine ⟨fun addr dir speed c hb => exec_of_frame_in_buffer hs hd ?_,
    fun g addr v c hb => exec_of_frame_in_buffer hs hd ?_, fun a o c hb => exec_of_frame_in_buffer hs hd ?_,
    fun a o c hb => exec_of_frame_in_buffer hs hd ?_⟩
  · rw [hb, ofNat_addrHi, ofNat_addrLo, ofNat_speed_byte]
    rfl
  · rw [hb, ofNat_addrHi, ofNat_addrLo]
    rfl
  · have b2_eq : BitVec.ofNat 8 (128 + 2 * o.toNat + 1) = 1#1 ++ o ++ 1#1 :=
      ofNat_eq_of_toNat (accessory_b2_toNat o 1#1)
    rw [hb, b2_eq]
    rfl
  · have b2_eq : BitVec.ofNat 8 (128 + 2 * o.toNat) = 1#1 ++ o ++ 0#1 :=
      ofNat_eq_of_toNat (accessory_b2_toNat o 0#1)
    rw [hb, b2_eq]
    rfl

/-! ### Every frame written -/

/-- The bytes of a frame are the encoding of a well-formed frame. -/
theorem blockFrame_encodes {p : Params} {bytes : List Byte} (h : blockFrame p bytes = true) :
    ∃ i : Instr, encode i = .frame bytes ∧ i.wellFormed = true := by
  unfold blockFrame at h
  split at h
  · rename_i i hi
    obtain ⟨well_formed, _⟩ := Bool.and_eq_true_iff.1 h
    exact ⟨i, encode_of_decodeFrame hi, well_formed⟩
  · cases h

theorem Instr.xorFold_eq_zero {i : Instr} {bytes : List Byte} (hi : encode i = .frame bytes)
    (hw : i.wellFormed = true) : xorFold bytes = 0x00#8 := by
  have checksum_ok : checksumOk (encode i).frameBytes = true := by
    cases i with
    | frameThrottle | frameActivate | frameDeactivate => exact hw
    | frameFunction =>
      simp only [Instr.wellFormed, Bool.and_eq_true] at hw
      obtain ⟨⟨checksum_ok, _⟩, _⟩ := hw
      exact checksum_ok
    | _ => cases hi
  rw [hi] at checksum_ok
  simpa [checksumOk, Code.frameBytes] using checksum_ok

/-- The two forms of a frame: six bytes with bits 7 and 6 of b2 clear, four with bit 7 of b2 set (R90 items 2, 3). -/
inductive FrameShape : List Byte → Prop where
  | six (b0 b1 b2 b3 b4 b5 : Byte) (h : b2.toNat < 64) : FrameShape [b0, b1, b2, b3, b4, b5]
  | four (b0 b1 b2 b3 : Byte) (h : 128 ≤ b2.toNat) : FrameShape [b0, b1, b2, b3]

theorem Instr.frameShape {i : Instr} {bytes : List Byte} (hi : encode i = .frame bytes) : FrameShape bytes := by
  cases i with
  | frameThrottle addr | frameFunction _ addr =>
    cases hi
    exact .six _ _ _ _ _ _ (addrHi_lt addr)
  | frameActivate _ o | frameDeactivate _ o =>
    cases hi
    refine .four _ _ _ _ ?_
    rw [accessory_b2_toNat]
    omega
  | _ => cases hi

/-- ACTIVATE's frame is DEACTIVATE's with bit 0 of b2 flipped, and so of the checksum b3 (R90 item 4). -/
theorem accessory_frames (addr offset : Byte) : ∃ b2 b3 : Byte,
    frameOf (accessoryBody addr offset 0x00#8) = [0x52#8, addr, b2, b3] ∧
    frameOf (accessoryBody addr offset 0x01#8) = [0x52#8, addr, b2 ^^^ 0x01#8, b3 ^^^ 0x01#8] := by
  have b2_flipped (b : Byte) :
      ((b ||| 0x80#8) &&& 0xFE#8) ||| 0x01#8 = (((b ||| 0x80#8) &&& 0xFE#8) ||| 0x00#8) ^^^ 0x01#8 := by
    revert b
    decide
  refine ⟨_, _, rfl, ?_⟩
  simp only [frameOf, accessoryBody, opAccessory, b2_flipped, xorFold, List.foldr, List.cons_append,
    List.nil_append, BitVec.xor_zero, BitVec.xor_assoc]

/-- Settles O19: what a step writes to the link is fs.buf, which the invariant says is a well-formed frame. -/
theorem frameInvariants : Obligations.FrameInvariants := by
  refine ⟨fun s t x bytes r inv hstep hx hw => ?_, accessory_frames⟩
  obtain ⟨_, _, at_write, rfl⟩ := serialWritesAreTheBuffer s t x bytes r hstep hx hw
  obtain ⟨_, _, _, framer_ok, _⟩ := inv
  obtain ⟨_, _, is_frame⟩ := framer_ok (Fs.busy_of_write at_write)
  obtain ⟨i, hi, well_formed⟩ := blockFrame_encodes is_frame
  refine ⟨Instr.xorFold_eq_zero hi well_formed, ?_⟩
  have shape := Instr.frameShape hi
  generalize s.fs.buf = buf at shape ⊢
  cases shape with
  | six _ _ b2 _ _ _ h => simpa using h
  | four _ _ b2 _ h => simpa using h

/-! ### The reader of the stream -/

theorem Params.classify_throttle (p : Params) (a : DccAddr) (dir : Dir) (speed : Byte) :
    p.classify (frameOf (throttleBody a dir speed)) = some .throttle := by
  simp [Params.classify, frameOf, throttleBody, opThrottle, opAccessory]

theorem Params.classify_accessory (p : Params) (addr offset x : Byte) :
    p.classify (frameOf (accessoryBody addr offset x)) = some .accessory := by
  simp [Params.classify, frameOf, accessoryBody]

/-- A group opcode is neither of the two fixed ones (R8(d)), and the first row the reader finds for it has it. -/
theorem Params.classify_function {p : Params} (hp : p.wellFormed = true) {num : Byte} {row : FuncRow}
    (hrow : p.funcRow num = some row) (a : DccAddr) (v : Byte) :
    p.classify (frameOf (functionBody row.groupOpcode a v)) = some (.function row.groupOpcode) := by
  obtain ⟨not_throttle, not_accessory⟩ := Params.opcode_apart hp (Params.funcRow_mem hrow)
  obtain ⟨r, found, same_opcode⟩ := Params.find_opcode (Params.funcRow_mem hrow)
  simp [Params.classify, frameOf, functionBody, not_throttle, not_accessory, found, same_opcode]

/-- Settles O21: the reader's three tests on the frames of the three commands. -/
theorem readerTellsFramesApart : Obligations.ReaderTellsFramesApart := fun p hp =>
  ⟨Params.classify_throttle p, Params.classify_accessory p,
    fun _ _ a v hrow => Params.classify_function hp hrow a v⟩

end Sys2Proof.Machine
end

section
/-! PROOFS. The text of host programs (30_encoding R81): what a line that assembles stands for, the thirteen forms and
their words, the tokens of a line and the numbers in them. -/

namespace Sys2Proof.Machine

/-! ### Lines that assemble -/

/-- Every form the parser takes is a command's, never a frame's. -/
theorem Asm.encode_of_parse {toks : List Token} {i : Instr} (h : Asm.parse toks = some i) :
    ∃ w, encode i = .hcw w := by
  unfold Asm.parse at h
  split at h
  · unfold Asm.bare at h
    split_ifs at h
    all_goals
      cases h
      exact ⟨_, rfl⟩
  · unfold Asm.unary at h
    split_ifs at h
    all_goals
      obtain ⟨_, _, rfl⟩ := Option.map_eq_some_iff.1 h
      exact ⟨_, rfl⟩
  · unfold Asm.binary at h
    split_ifs at h
    all_goals
      simp only [Option.bind_eq_some_iff, Option.map_eq_some_iff] at h
      obtain ⟨_, _, _, _, rfl⟩ := h
      exact ⟨_, rfl⟩
  · unfold Asm.ternary at h
    split_ifs at h
    all_goals
      simp only [Option.bind_eq_some_iff, Option.map_eq_some_iff] at h
      obtain ⟨_, _, _, _, _, _, rfl⟩ := h
      exact ⟨_, rfl⟩
  · cases h

/-- Settles O6: a line stands for a command, and a command is read back from its word. -/
theorem assembledLineDecodes : Obligations.AssembledLineDecodes := by
  intro line i hline
  obtain ⟨w, hw⟩ := Asm.encode_of_parse hline
  have assembled : assembleWord line = some w := by simp [assembleWord, hline, hw]
  exact ⟨w, hw, assembled, decodeHcw_of_encode hw⟩

/-! ### The thirteen forms -/

/-- The tokens stand for a command whose word is n: of a word put together from fields, the number follows by
arithmetic. -/
theorem assemblesTo_of {toks : List Token} {i : Instr} {w : Word} {n : Nat} (hp : Asm.parse toks = some i)
    (hi : encode i = .hcw w)
    (hw : w.toNat = n := by simp only [append_toNat, BitVec.toNat_ofNat]; omega) : assemblesTo toks i n :=
  ⟨hp, by rw [hi, ofNat_eq_of_toNat hw]⟩

section
variable {t u v : Token}

theorem assembles_setDiag {en : Switch} (ht : Asm.enable t = some en) :
    assemblesTo ["SET_DIAG".toList, t] (.setDiag en) (0x03 * 2 ^ 24 + en.bit.toNat) :=
  assemblesTo_of (by simp [Asm.parse, Asm.unary, ht]) rfl

theorem assembles_bindTrain {s : Byte} {addr : BitVec 16} (ht : Asm.slot t = some s)
    (hu : Asm.field 16 u = some addr) :
    assemblesTo ["BIND_TRAIN".toList, t, [','], u] (.bindTrain s addr)
      (0x10 * 2 ^ 24 + s.toNat * 2 ^ 16 + addr.toNat) :=
  assemblesTo_of (by simp [Asm.parse, Asm.binary, ht, hu]) rfl

theorem assembles_throttle {s speed : Byte} {d : Dir} (ht : Asm.slot t = some s) (hu : Asm.field 8 u = some speed)
    (hv : Asm.dir v = some d) :
    assemblesTo ["THROTTLE".toList, t, [','], u, [','], v] (.throttle s d speed)
      (0x11 * 2 ^ 24 + s.toNat * 2 ^ 16 + d.bit.toNat * 2 ^ 8 + speed.toNat) :=
  assemblesTo_of (by simp [Asm.parse, Asm.ternary, ht, hu, hv]) rfl

theorem assembles_function {s n : Byte} {sw : Switch} (ht : Asm.slot t = some s) (hu : Asm.fnNum u = some n)
    (hv : Asm.onOff v = some sw) :
    assemblesTo ["FUNCTION".toList, t, [','], u, [','], v] (.function s n sw)
      (0x12 * 2 ^ 24 + s.toNat * 2 ^ 16 + n.toNat * 2 ^ 8 + sw.bit.toNat) :=
  assemblesTo_of (by simp [Asm.parse, Asm.ternary, ht, hu, hv]) rfl

theorem assembles_activate {addr offset : Byte} (ht : Asm.field 8 t = some addr) (hu : Asm.field 8 u = some offset) :
    assemblesTo ["ACTIVATE".toList, t, [','], u] (.activate addr offset)
      (0x13 * 2 ^ 24 + addr.toNat * 2 ^ 8 + offset.toNat) :=
  assemblesTo_of (by simp [Asm.parse, Asm.binary, ht, hu]) rfl

theorem assembles_deactivate {addr offset : Byte} (ht : Asm.field 8 t = some addr) (hu : Asm.field 8 u = some offset) :
    assemblesTo ["DEACTIVATE".toList, t, [','], u] (.deactivate addr offset)
      (0x14 * 2 ^ 24 + addr.toNat * 2 ^ 8 + offset.toNat) :=
  assemblesTo_of (by simp [Asm.parse, Asm.binary, ht, hu]) rfl

theorem assembles_configure {ctrl : Byte} (ht : Asm.field 8 t = some ctrl) :
    assemblesTo ["CONFIGURE".toList, t] (.configure ctrl) (0x22 * 2 ^ 24 + ctrl.toNat) :=
  assemblesTo_of (by simp [Asm.parse, Asm.unary, ht]) rfl

theorem assembles_makeSensor {ctrl bank port : Byte} (ht : Asm.field 8 t = some ctrl) (hv : Asm.bank v = some bank)
    (hu : Asm.field 8 u = some port) :
    assemblesTo ["MAKE_SENSOR".toList, t, [','], v, [','], u] (.makeSensor ctrl bank port)
      (0x23 * 2 ^ 24 + ctrl.toNat * 2 ^ 16 + bank.toNat * 2 ^ 8 + port.toNat) :=
  assemblesTo_of (by simp [Asm.parse, Asm.ternary, ht, hu, hv]) rfl

theorem assembles_wait {ctrl bank port : Byte} (ht : Asm.field 8 t = some ctrl) (hv : Asm.bank v = some bank)
    (hu : Asm.field 8 u = some port) :
    assemblesTo ["WAIT".toList, t, [','], v, [','], u] (.wait ctrl bank port)
      (0x24 * 2 ^ 24 + ctrl.toNat * 2 ^ 16 + bank.toNat * 2 ^ 8 + port.toNat) :=
  assemblesTo_of (by simp [Asm.parse, Asm.ternary, ht, hu, hv]) rfl

end

/-- Settles O58: each form by its command's lemma, at FWD and REV, ON and OFF, on and off, A and B. -/
theorem assembledForms : Obligations.AssembledForms := by
  refine ⟨⟨rfl, rfl⟩, ⟨rfl, rfl⟩, assembles_setDiag rfl, assembles_setDiag rfl, fun _ _ _ _ => assembles_bindTrain,
    fun _ _ _ _ ht hu => ⟨assembles_throttle ht hu rfl, ?_⟩, fun _ _ _ _ ht hu => ⟨assembles_function ht hu rfl, ?_⟩,
    fun _ _ _ _ ht hu => ⟨assembles_activate ht hu, assembles_deactivate ht hu⟩, ⟨rfl, rfl⟩, ⟨rfl, rfl⟩,
    fun _ _ => assembles_configure, fun _ _ _ _ ht hu => ⟨assembles_makeSensor ht rfl hu,
      assembles_makeSensor ht rfl hu, assembles_wait ht rfl hu, assembles_wait ht rfl hu⟩⟩
  · simpa [Dir.bit] using assembles_throttle (d := .reverse) ht hu rfl
  · simpa [Switch.bit] using assembles_function (sw := .off) ht hu rfl

/-! ### Tokens -/

/-- A character that may stand in a token: no blank, comma or comment sign. -/
def Asm.inToken (ch : Char) : Bool := ch ≠ ' ' && ch ≠ '\t' && ch ≠ '\r' && ch ≠ ',' && ch ≠ ';'

theorem Asm.plain_iff (t : Token) : Asm.plain t = true ↔ t ≠ [] ∧ ∀ ch ∈ t, Asm.inToken ch = true := by
  simp [Asm.plain, Asm.inToken]

theorem Asm.lex_cons_inToken {ch : Char} (h : Asm.inToken ch = true) (cur : Token) (rest : List Char) :
    Asm.lex cur (ch :: rest) = Asm.lex (cur ++ [ch]) rest := by
  simp only [Asm.inToken, Bool.and_eq_true, decide_eq_true_eq] at h
  obtain ⟨⟨⟨⟨not_space, not_tab⟩, not_return⟩, not_comma⟩, not_comment⟩ := h
  simp [Asm.lex, not_space, not_tab, not_return, not_comma, not_comment]

theorem Asm.lex_append_inToken {t : Token} (h : ∀ ch ∈ t, Asm.inToken ch = true) (cur : Token)
    (rest : List Char) : Asm.lex cur (t ++ rest) = Asm.lex (cur ++ t) rest := by
  induction t generalizing cur with
  | nil => simp
  | cons ch t ih =>
    obtain ⟨head, tail⟩ := List.forall_mem_cons.1 h
    simp [Asm.lex_cons_inToken head, ih tail]

theorem Asm.lex_plain {t : Token} (h : Asm.plain t = true) (rest : List Char) :
    Asm.lex [] t = [t] ∧ Asm.lex [] (t ++ ';' :: rest) = [t] ∧
    Asm.lex [] (t ++ ' ' :: rest) = t :: Asm.lex [] rest ∧
    Asm.lex [] (t ++ ',' :: rest) = t :: [','] :: Asm.lex [] rest := by
  obtain ⟨nonempty, in_token⟩ := (Asm.plain_iff t).1 h
  have absorbed (rest : List Char) : Asm.lex [] (t ++ rest) = Asm.lex t rest :=
    Asm.lex_append_inToken in_token [] rest
  have at_end := absorbed []
  rw [List.append_nil] at at_end
  simp [at_end, absorbed, Asm.lex, Asm.flush, nonempty]

/-! ### Numbers -/

theorem Asm.digit_digitChar {d : Nat} (h : d < 16) : Asm.digit d.digitChar = some d := by
  revert d
  decide

theorem Asm.digits_append (base acc : Nat) (l m : List Char) :
    Asm.digits base acc (l ++ m) = (Asm.digits base acc l).bind fun n => Asm.digits base n m := by
  induction l generalizing acc with
  | nil => rfl
  | cons ch l ih =>
    simp only [List.cons_append, Asm.digits]
    split
    · split
      · exact ih _
      · rfl
    · rfl

theorem Asm.digits_digitChar {base d : Nat} (hb : base ≤ 16) (hd : d < base) (acc : Nat) :
    Asm.digits base acc [d.digitChar] = some (acc * base + d) := by
  simp [Asm.digits, Asm.digit_digitChar (hd.trans_le hb), hd]

/-- The digits of a number are read back as the number. -/
theorem Asm.digits_toDigits {base : Nat} (h1 : 1 < base) (h16 : base ≤ 16) (n : Nat) :
    Asm.digits base 0 (base.toDigits n) = some n := by
  induction n using Nat.strongRecOn with
  | ind n ih =>
    rcases Nat.lt_or_ge n base with small | large
    · simp [Nat.toDigits_of_lt_base small, Asm.digits_digitChar h16 small]
    · have last_lt : n % base < base := Nat.mod_lt n (by omega)
      have shorter : n / base < n := Nat.div_lt_self (by omega) h1
      rw [Nat.toDigits_of_base_le h1 large, Asm.digits_append, ih _ shorter, Option.bind_some,
        Asm.digits_digitChar h16 last_lt, Nat.div_add_mod']

theorem Asm.number_decimal {t : Token} (ht : t ≠ []) (hx : 'x' ∉ t) : Asm.number t = Asm.digits 10 0 t := by
  unfold Asm.number
  split
  · simp at hx
  · rfl
  · exact absurd rfl ht

theorem Asm.number_hex {t : Token} (ht : t ≠ []) : Asm.number ('0' :: 'x' :: t) = Asm.digits 16 0 t := by
  cases t with
  | nil => exact absurd rfl ht
  | cons => rfl

theorem Asm.number_toDigits_ten (n : Nat) : Asm.number (Nat.toDigits 10 n) = some n := by
  have no_x : 'x' ∉ Nat.toDigits 10 n := fun hx =>
    absurd (Nat.isDigit_of_mem_toDigits (by decide) (by decide) hx) (by decide)
  rw [Asm.number_decimal Nat.toDigits_ne_nil no_x, Asm.digits_toDigits (by decide) (by decide)]

theorem Asm.number_toDigits_sixteen (n : Nat) : Asm.number ('0' :: 'x' :: Nat.toDigits 16 n) = some n := by
  rw [Asm.number_hex Nat.toDigits_ne_nil, Asm.digits_toDigits (by decide) (by decide)]

theorem Asm.field_of_number {t : Token} {n : Nat} (h : Asm.number t = some n) (w : Nat) :
    Asm.field w t = if n < 2 ^ w then some (BitVec.ofNat w n) else none := by
  simp [Asm.field, h]

/-- Settles O59: a token's characters are read into it until one that ends it, and a number is read back from its
digits in either base. -/
theorem lineTokensAndNumbers : Obligations.LineTokensAndNumbers := by
  refine ⟨fun t rest h => Asm.lex_plain h rest, fun rest => ?_, fun w n => ?_, fun t => ⟨rfl, rfl⟩⟩
  · simp [Asm.lex, Asm.flush]
  · rw [Asm.field_of_number (Asm.number_toDigits_ten n), Asm.field_of_number (Asm.number_toDigits_sixteen n)]
    exact ⟨fun fits => ⟨if_pos fits, if_pos fits⟩,
      fun large => ⟨if_neg (Nat.not_lt.2 large), if_neg (Nat.not_lt.2 large)⟩⟩

end Sys2Proof.Machine
end

section
/-! PROOFS. FS's one step (40_command_protocol R120): its outcome in each state and under each answer, and from that
what a wire frame does and how FS's turn comes to run one. -/

namespace Sys2Proof.Machine

/-! ### The turn in each state -/

/-- FS's turn at its WRITE is the SerWrite of fs.buf, whatever the bytes decode as. -/
theorem fsTurn_write {s : State} (h : s.fs.st = .write) : fsTurn s = .next (fsWritten s.fs.owner s.fs.buf s) := by
  obtain ⟨t, ht⟩ := fsTurn_completes s
  rw [ht, fsTurn_write_next h ht]

theorem fsTurn_settle {s : State} (h : s.fs.st = .settle) : fsTurn s = .next (fsSettle s) := by
  simp [fsTurn, h]

theorem fsTurn_drain {s : State} (h : s.fs.st = .drain) :
    fsTurn s = .next (fsDrained s.fs.owner s.fs.attempt s) := by
  simp [fsTurn, h, fsDrain_busy ((Fs.busy_iff s.fs).2 (by simp [h]))]

/-! ### The answers -/

/-- s after FS has ended its send on a failed transaction, `e` (R120): the link closed, TransportError pending. -/
def State.sendFailed (e : Event) (s : State) : State :=
  { s with
    serialOpen := false
    fs := { s.fs with st := .idle }
    history := s.history ++ [⟨.fs, e⟩]
    callers := Callers.put s.fs.owner (.done 0x00000001#32) s.callers }

theorem fsWritten_blocked {s : State} (h : s.draw.write = .blocked) (owner : CallerId) (buf : List Byte) :
    fsWritten owner buf s = s := by
  simp [fsWritten, h]

theorem fsWritten_fail {s : State} (h : s.draw.write = .fail) (buf : List Byte) :
    fsWritten s.fs.owner buf s = s.sendFailed (.serWrite buf .fail) := by
  simp only [fsWritten, h]
  rfl

theorem fsDrained_blocked {s : State} (h : s.draw.drain = .blocked) (owner : CallerId) (n : Nat) :
    fsDrained owner n s = s := by
  simp [fsDrained, h]

theorem fsDrained_fail {s : State} (h : s.draw.drain = .fail) (n : Nat) :
    fsDrained s.fs.owner n s = s.sendFailed (.serDrain .fail) := by
  simp only [fsDrained, h]
  rfl

/-- s after a SerDrain that returned rx, and its echo (R121). -/
def State.drained (rx : List Byte) (s : State) : State :=
  { s with
    history := s.history ++ ⟨.fs, .serDrain (.ok rx)⟩ ::
      (if s.diag = true then rx.map fun b => ⟨.fs, .diagRx b⟩ else []) }

theorem fsDrained_ok {s : State} {rx : List Byte} (h : s.draw.drain = .ok rx) (owner : CallerId) (n : Nat) :
    fsDrained owner n s = fsAttemptDone owner n rx (s.drained rx) := by
  have echoed : (s.log .fs (.serDrain (.ok rx))).echoRx rx = s.drained rx := by
    cases hd : s.diag <;> simp [State.echoRx, State.drained, State.log, hd]
  simp only [fsDrained, h, echoed]

theorem fsAttemptDone_acknowledged {rx : List Byte} (h : 0x05#8 ∈ rx) (owner : CallerId) (n : Nat) (s : State) :
    fsAttemptDone owner n rx s = s.finishFs owner .ok := if_pos h

theorem fsAttemptDone_again {rx : List Byte} {n : Nat} (h : 0x05#8 ∉ rx) (hn : n + 1 < 5) (owner : CallerId)
    (s : State) : fsAttemptDone owner n rx s = s.setFs { s.fs with st := .write, attempt := n + 1 } :=
  (if_neg h).trans (if_pos hn)

theorem fsAttemptDone_last {rx : List Byte} {n : Nat} (h : 0x05#8 ∉ rx) (hn : 5 ≤ n + 1) (owner : CallerId)
    (s : State) :
    fsAttemptDone owner n rx s = (s.setFs { s.fs with attempt := n + 1 }).finishFs owner .protocolError :=
  (if_neg h).trans (if_neg (Nat.not_lt.2 hn))

/-- Settles O16: FS's turn in each state, under each answer. -/
theorem framerStepOutcome : Obligations.FramerStepOutcome := by
  intro s
  refine ⟨fun hst => ?_, fun hst => fsTurn_settle hst, fun hst => ?_⟩
  · rw [show moveStep .fs s = _ from fsTurn_write hst]
    exact ⟨fun hd => congrArg _ (fsWritten_blocked hd _ _), fun hd => congrArg _ (fsWritten_fail hd _),
      fun hd => congrArg _ (fsWritten_ok hd _)⟩
  · rw [show moveStep .fs s = _ from fsTurn_drain hst]
    refine ⟨fun hd => congrArg _ (fsDrained_blocked hd _ _), fun hd => congrArg _ (fsDrained_fail hd _),
      fun rx hd => ?_⟩
    rw [fsDrained_ok hd]
    exact ⟨fun hrx => congrArg _ (fsAttemptDone_acknowledged hrx _ _ _),
      fun hrx hn => congrArg _ (fsAttemptDone_again hrx hn _ _),
      fun hrx hn => congrArg _ (fsAttemptDone_last hrx hn _ _)⟩

/-! ### Frames as instructions -/

/-- Settles O18: a frame is the SerWrite of its bytes when FS is about to write them, and is refused otherwise. -/
theorem frameWriteOtherwise : Obligations.FrameWriteOtherwise := by
  intro s i bytes hi
  rw [exec_of_frame hi]
  have due (hst : s.fs.st = .write) (hbuf : s.fs.buf = bytes) :
      sendFrame bytes s = .next (fsWritten s.fs.owner bytes s) := by
    rw [sendFrame, if_pos ⟨hst, hbuf⟩, fsWrite_busy (Fs.busy_of_write hst), hbuf]
  refine ⟨fun hst hbuf hd => ?_, fun hst hbuf hd => ?_, fun h => if_neg (not_and_or.2 h)⟩
  · rw [due hst hbuf, fsWritten_blocked hd]
  · rw [due hst hbuf, fsWritten_fail hd]
    rfl

theorem step_of_fs {s : State} (hp : s.params.wellFormed = true) (hm : s.nextTurn.move = .fs) :
    step s = fsTurn s.takeTurn := by
  simp only [step, hp, if_true, hm, moveStep]

/-- Settles O8: taking the turn leaves FS's registers, and FS's turn decodes its buffer and runs the frame. -/
theorem stepRunsFrameInBuffer : Obligations.StepRunsFrameInBuffer := by
  intro s i hp hm hst hi
  rw [← s.takeTurn_fs] at hst hi
  rw [step_of_fs hp hm, fsTurn, hst]
  simp only [fsWriteTurn, reading_fsBuf (Fs.busy_of_write hst), hi]

end Sys2Proof.Machine
end

section
/-! PROOFS. The end of a send (40_command_protocol R125): an FS step that is not blocked lowers FS's rank or ends the
send, every other step but reset leaves FS alone, and so a send ends within as many unblocked FS steps as its rank. -/

namespace Sys2Proof.Machine

/-! ### The rank of FS's steps -/

/-- The rank of a busy FS counts the steps left in this attempt and three for each attempt after it. -/
theorem State.fsRank_bounds {s : State} (hst : s.fs.st ≠ .idle) (hn : s.fs.attempt < maxAttempts) :
    1 ≤ s.fsRank ∧ s.fsRank ≤ 15 := by
  unfold State.fsRank
  unfold maxAttempts at hn ⊢
  split
  case h_1 hidle => exact absurd hidle hst
  all_goals omega

theorem State.fsRank_first_write {s : State} (hst : s.fs.st = .write) (hn : s.fs.attempt = 0) :
    s.fsRank = 15 := by
  simp [State.fsRank, hst, hn, maxAttempts]

/-- How FS gets on from s to t: its rank falls, at the same frame for the same owner; or the send has ended, with one
of a send's three results pending for the owner. -/
inductive FsAdvances (s t : State) : Prop where
  | on (hst : t.fs.st ≠ .idle) (hn : t.fs.attempt < maxAttempts) (hr : t.fsRank < s.fsRank)
      (hb : t.fs.buf = s.fs.buf) (ho : t.fs.owner = s.fs.owner)
  | ended (k : ResultCode) (hk : k = .ok ∨ k = .transportError ∨ k = .protocolError) (hst : t.fs.st = .idle)
      (hc : t.caller s.fs.owner = some (.done (hrw k 0#8)))

@[simp] theorem State.finishFs_caller_self (c : CallerId) (k : ResultCode) (s : State) :
    (s.finishFs c k).caller c = some (.done (hrw k 0#8)) :=
  Callers.get_put_self _ _ _

/-- FS ends its send, whatever else of the state u has changed. -/
theorem FsAdvances.of_finishFs {s : State} (u : State) {k : ResultCode}
    (hk : k = .ok ∨ k = .transportError ∨ k = .protocolError) : FsAdvances s (u.finishFs s.fs.owner k) :=
  .ended k hk rfl (State.finishFs_caller_self _ _ _)

theorem fsWritten_advances {s : State} (hst : s.fs.st = .write) (hn : s.fs.attempt < maxAttempts)
    (hd : s.draw.write ≠ .blocked) : FsAdvances s (fsWritten s.fs.owner s.fs.buf s) := by
  rcases fsWritten_cases s.fs.owner s.fs.buf s with ⟨blocked, _⟩ | ⟨_, h⟩ | ⟨_, h⟩
  · exact absurd blocked hd
  · exact h ▸ .of_finishFs _ (by simp)
  · rw [h]
    refine .on (by simp) (by simpa using hn) ?_ (by simp) (by simp)
    simp only [State.fsRank, State.setFsSt_fs, State.echoTx_fs, State.log_fs, hst]
    omega

theorem fsSettle_advances {s : State} (hst : s.fs.st = .settle) (hn : s.fs.attempt < maxAttempts) :
    FsAdvances s (fsSettle s) := by
  refine .on (by simp [fsSettle]) hn ?_ rfl rfl
  simp only [State.fsRank, fsSettle, State.setFsSt_fs, State.log_fs, hst]
  omega

theorem fsDrained_advances {s : State} (hst : s.fs.st = .drain) (hd : s.draw.drain ≠ .blocked) :
    FsAdvances s (fsDrained s.fs.owner s.fs.attempt s) := by
  rcases fsDrained_cases s.fs.owner s.fs.attempt s with ⟨blocked, _⟩ | ⟨_, h⟩ | ⟨rx, _, h⟩
  · exact absurd blocked hd
  · exact h ▸ .of_finishFs _ (by simp)
  · rw [h]
    rcases fsAttemptDone_cases s.fs.owner s.fs.attempt rx ((s.log .fs (.serDrain (.ok rx))).echoRx rx) with
      ⟨_, h⟩ | ⟨_, again, h⟩ | ⟨_, _, h⟩ <;> rw [h]
    · exact .of_finishFs _ (by simp)
    · refine .on (by simp) again ?_ (by simp) (by simp)
      simp only [State.fsRank, State.setFs_fs, hst]
      omega
    · exact .of_finishFs _ (by simp)

/-- A turn of a busy FS whose transaction does not answer blocked. -/
theorem fsTurn_advances {s t : State} (hst : s.fs.st ≠ .idle) (hn : s.fs.attempt < maxAttempts)
    (hd : s.fs.st.blockedBy s.draw = false) (h : fsTurn s = .next t) : FsAdvances s t := by
  cases hs : s.fs.st with
  | idle => exact absurd hs hst
  | write =>
    rw [fsTurn_write hs] at h
    cases h
    exact fsWritten_advances hs hn (by simpa [hs, FsSt.blockedBy] using hd)
  | settle =>
    rw [fsTurn_settle hs] at h
    cases h
    exact fsSettle_advances hs hn
  | drain =>
    rw [fsTurn_drain hs] at h
    cases h
    exact fsDrained_advances hs (by simpa [hs, FsSt.blockedBy] using hd)

/-- A turn of FS whose transaction answers blocked. -/
theorem fsTurn_blocked {s : State} (hd : s.fs.st.blockedBy s.draw = true) : fsTurn s = .next s := by
  cases hs : s.fs.st with
  | write => rw [fsTurn_write hs, fsWritten_blocked (by simpa [hs, FsSt.blockedBy] using hd)]
  | drain => rw [fsTurn_drain hs, fsDrained_blocked (by simpa [hs, FsSt.blockedBy] using hd)]
  | idle | settle => simp [hs, FsSt.blockedBy] at hd

/-! ### The whole step -/

theorem wellFormed_of_step {s t : State} (h : step s = .next t) : s.params.wellFormed = true := by
  unfold step at h
  split at h
  · assumption
  · cases h

theorem State.fsUnblocked_iff (s : State) :
    s.fsUnblocked = true ↔ s.nextTurn.move = .fs ∧ s.fs.st.blockedBy s.nextTurn.draw = false := by
  simp [State.fsUnblocked]

/-- A step of FS that is not blocked, while FS is busy. -/
theorem step_fsAdvances {s t : State} (hst : s.fs.st ≠ .idle) (hn : s.fs.attempt < maxAttempts)
    (h : step s = .next t) (hu : s.fsUnblocked = true) : FsAdvances s t := by
  obtain ⟨hm, hd⟩ := (State.fsUnblocked_iff s).1 hu
  rw [step_of_fs (wellFormed_of_step h) hm] at h
  have advances : FsAdvances s.takeTurn t := fsTurn_advances (by simpa using hst) (by simpa using hn)
    (by simpa using hd) h
  cases advances with
  | on hst hn hr hb ho =>
    exact .on hst hn (by simpa [State.fsRank] using hr) (by simpa using hb) (by simpa using ho)
  | ended k hk hst hc => exact .ended k hk hst (by simpa using hc)

/-- Any other step but reset, while FS is busy. -/
theorem step_fs_eq {s t : State} (hst : s.fs.st ≠ .idle) (h : step s = .next t) (hu : s.fsUnblocked = false)
    (hr : s.nextTurn.move ≠ .reset) : t.fs = s.fs := by
  by_cases hm : s.nextTurn.move = .fs
  · have blocked : s.takeTurn.fs.st.blockedBy s.takeTurn.draw = true := by
      simpa [State.fsUnblocked, hm] using hu
    rw [step_of_fs (wellFormed_of_step h) hm, fsTurn_blocked blocked] at h
    cases h
    exact s.takeTurn_fs
  · by_contra hne
    rcases (step_stepped h).fs_moved (by simpa using hne) with fs_turn | reset | ⟨idle, _⟩
    · exact hm fs_turn
    · exact hr reset
    · exact hst (by simpa using idle)

/-- Settles O60: an unblocked FS step advances the send, and FS's registers are FS's own while it is busy. -/
theorem fsRankFalls : Obligations.FsRankFalls := by
  intro s t hst hn hstep
  obtain ⟨low, high⟩ := State.fsRank_bounds hst hn
  refine ⟨⟨low, high, State.fsRank_first_write⟩, fun hu => ?_, step_fs_eq hst hstep⟩
  cases step_fsAdvances hst hn hstep hu with
  | on hst hn hr hb ho => exact .inl ⟨hst, hn, hr, hb, ho⟩
  | ended k hk hst hc =>
    refine .inr ⟨hst, ?_⟩
    rcases hk with rfl | rfl | rfl
    · exact .inl hc
    · exact .inr (.inl hc)
    · exact .inr (.inr hc)

/-! ### The whole send -/

section
variable {s t : State} (h : step s = .next t)
include h

theorem runSteps_succ (n : Nat) : runSteps (n + 1) s = runSteps n t := by
  simp [runSteps, h]

theorem fsTurnsTaken_succ (n : Nat) :
    fsTurnsTaken (n + 1) s = (if s.fsUnblocked then 1 else 0) + fsTurnsTaken n t := by
  simp [fsTurnsTaken, h]

theorem resetFree_succ (n : Nat) :
    resetFree (n + 1) s = true ↔ s.nextTurn.move ≠ .reset ∧ resetFree n t = true := by
  simp [resetFree, h]

end

/-- Within n steps from s, at most r of them unblocked steps of FS, the send of FS's owner ends. -/
def SendEndsWithin (n r : Nat) (s : State) : Prop :=
  ∃ m t, m ≤ n ∧ fsTurnsTaken m s ≤ r ∧ runSteps m s = .next t ∧ t.fs.st = .idle ∧
    ∃ w, t.caller s.fs.owner = some (.done w)

/-- A step before the rest of the send, which counts when it is an unblocked step of FS. -/
theorem SendEndsWithin.cons {s t : State} {n r k : Nat} (hstep : step s = .next t) (ho : t.fs.owner = s.fs.owner)
    (hk : (if s.fsUnblocked then 1 else 0) + r ≤ k) (h : SendEndsWithin n r t) : SendEndsWithin (n + 1) k s := by
  obtain ⟨m, u, hm, hr, hrun, hst, hw⟩ := h
  refine ⟨m + 1, u, Nat.succ_le_succ hm, ?_, (runSteps_succ hstep m).trans hrun, hst, ho ▸ hw⟩
  rw [fsTurnsTaken_succ hstep]
  omega

/-- A send ends within as many unblocked steps of FS as its rank. -/
theorem sendEndsWithin_fsRank {n : Nat} {s : State} (hp : s.params.wellFormed = true) (hst : s.fs.st ≠ .idle)
    (hn : s.fs.attempt < maxAttempts) (hreset : resetFree n s = true) (hr : s.fsRank ≤ fsTurnsTaken n s) :
    SendEndsWithin n s.fsRank s := by
  induction n generalizing s with
  | zero =>
    obtain ⟨rank_pos, _⟩ := State.fsRank_bounds hst hn
    exact absurd (rank_pos.trans hr) (by simp [fsTurnsTaken])
  | succ n ih =>
    obtain ⟨t, hstep⟩ := stepAlwaysCompletes s hp
    have params_ok : t.params.wellFormed = true := by rwa [(parametersFixed s).1 t hstep]
    obtain ⟨no_reset, reset_free⟩ := (resetFree_succ hstep n).1 hreset
    rw [fsTurnsTaken_succ hstep] at hr
    cases hu : s.fsUnblocked with
    | true =>
      rw [hu, if_pos rfl] at hr
      cases step_fsAdvances hst hn hstep hu with
      | on hst' hn' falls _ ho =>
        refine .cons hstep ho ?_ (ih params_ok hst' hn' reset_free (by omega))
        rw [hu, if_pos rfl]
        omega
      | ended k _ idle hc =>
        refine ⟨1, t, by omega, ?_, runSteps_succ hstep 0, idle, _, hc⟩
        rw [fsTurnsTaken_succ hstep, hu]
        exact (State.fsRank_bounds hst hn).1
    | false =>
      have fs_same := step_fs_eq hst hstep hu no_reset
      have rank_same : t.fsRank = s.fsRank := by simp only [State.fsRank, fs_same]
      rw [hu] at hr
      have rest : SendEndsWithin n t.fsRank t := ih params_ok (fs_same ▸ hst) (fs_same ▸ hn) reset_free
        (by simpa [rank_same] using hr)
      exact .cons hstep (congrArg Fs.owner fs_same) (by simp [hu, rank_same]) rest

/-- Settles O54: the rank is 15 at the first WRITE. -/
theorem sendEndsWithinFifteenSteps : Obligations.SendEndsWithinFifteenSteps := by
  intro s n hp hst hn hreset htaken
  rw [← State.fsRank_first_write hst hn] at htaken ⊢
  exact sendEndsWithin_fsRank hp (by simp [hst]) (by simp [hn, maxAttempts]) hreset htaken

end Sys2Proof.Machine
end

section
/-! PROOFS. A send with FS stepping alone and diagnostics off (40_command_protocol R122, R123): the three turns of one
attempt, then any number of attempts that are not acknowledged and a last one. -/

namespace Sys2Proof.Machine

/-- A run whose first turn is a scripted turn of FS. -/
theorem runSteps_fsTurn {s t : State} {d : Draw} {rest : List Turn} (hp : s.params.wellFormed = true)
    (h : s.script = ⟨.fs, d⟩ :: rest) (ht : fsTurn { s with script := rest, draw := d } = .next t) (n : Nat) :
    runSteps (n + 1) s = runSteps n t := by
  refine runSteps_succ ?_ n
  rw [step_of_fs hp (by rw [State.nextTurn_cons h]), State.takeTurn_cons h, ht]

/-- s once the turns of one attempt have brought FS to the bytes rx of its drain, the turns `rest` still to come. -/
def State.attemptMade (rx : List Byte) (rest : List Turn) (s : State) : State :=
  { s with
    fs := { s.fs with st := .drain }
    history := s.history ++ attemptEvents s.fs.buf rx
    script := rest
    draw := (fsTurnDrain (.ok rx)).draw }

/-- One attempt: write, settle and drain, and then what the drained bytes decide. -/
theorem runSteps_attempt {s : State} {rx : List Byte} {rest : List Turn} (hp : s.params.wellFormed = true)
    (hdiag : s.diag = false) (hst : s.fs.st = .write) (h : s.script = attemptTurns rx ++ rest) (n : Nat) :
    runSteps (n + 3) s = runSteps n (fsAttemptDone s.fs.owner s.fs.attempt rx (s.attemptMade rx rest)) := by
  refine (runSteps_fsTurn hp h (fsTurn_write hst) _).trans ?_
  rw [fsWritten_ok rfl]
  refine Eq.trans (runSteps_fsTurn (by exact hp) rfl (fsTurn_settle rfl) _) ?_
  refine Eq.trans (runSteps_fsTurn (by exact hp) rfl (fsTurn_drain rfl) _) ?_
  rw [fsDrained_ok rfl]
  simp [State.attemptMade, State.drained, State.frameSent, fsSettle, State.setFsSt, State.setFs, State.log, hdiag,
    attemptEvents, fsTurnDrain]

/-- From s to u the attempts whose drains return rxs have been made: their events are in the history, the turns `rest`
are still to come, and the link and the slots are as they were. -/
structure AttemptsMade (rxs : List (List Byte)) (rest : List Turn) (s u : State) : Prop where
  history : u.history = s.history ++ rxs.flatMap (attemptEvents s.fs.buf)
  serialOpen : u.serialOpen = s.serialOpen
  slots : u.slots = s.slots
  script : u.script = rest

/-- Attempts that are not acknowledged, as many as leave one more, and a last one whose bytes decide. -/
theorem runSteps_attempts {rxs : List (List Byte)} {last : List Byte} {rest : List Turn} {s : State}
    (hp : s.params.wellFormed = true) (hdiag : s.diag = false) (hst : s.fs.st = .write)
    (hn : s.fs.attempt + rxs.length < 5) (hrxs : ∀ rx ∈ rxs, 0x05#8 ∉ rx)
    (h : s.script = (rxs ++ [last]).flatMap attemptTurns ++ rest) :
    ∃ u, AttemptsMade (rxs ++ [last]) rest s u ∧ runSteps (3 * (rxs.length + 1)) s =
      .next (fsAttemptDone s.fs.owner (s.fs.attempt + rxs.length) last u) := by
  induction rxs generalizing s with
  | nil =>
    refine ⟨s.attemptMade last rest, ⟨by simp [State.attemptMade], rfl, rfl, rfl⟩, ?_⟩
    exact runSteps_attempt hp hdiag hst (by simpa using h) 0
  | cons rx rxs ih =>
    obtain ⟨unacknowledged, hrxs⟩ := List.forall_mem_cons.1 hrxs
    rw [List.length_cons] at hn
    have first := runSteps_attempt hp hdiag hst (rx := rx)
      (rest := (rxs ++ [last]).flatMap attemptTurns ++ rest) (by simpa using h) (3 * (rxs.length + 1))
    rw [fsAttemptDone_again unacknowledged (by omega)] at first
    obtain ⟨u, ⟨history, link, slots, script⟩, hrun⟩ := ih (s := (s.attemptMade rx
      ((rxs ++ [last]).flatMap attemptTurns ++ rest)).setFs
        { s.fs with st := .write, attempt := s.fs.attempt + 1 }) hp hdiag rfl
      (by show s.fs.attempt + 1 + rxs.length < 5; omega) hrxs rfl
    refine ⟨u, ⟨by simpa [State.attemptMade] using history, link, slots, script⟩, ?_⟩
    have count : s.fs.attempt + (rxs.length + 1) = s.fs.attempt + 1 + rxs.length := by omega
    rw [List.length_cons, count]
    exact first.trans hrun

/-- Settles O53: n attempts are not acknowledged, and the bytes of the next one hold ENQ. -/
theorem acknowledgedSend : Obligations.AcknowledgedSend := by
  intro s rxs last rest hp hdiag hst hn hlen hrxs hlast h
  obtain ⟨u, ⟨history, link, _, script⟩, hrun⟩ := runSteps_attempts hp hdiag hst (by omega) hrxs h
  rw [fsAttemptDone_acknowledged hlast] at hrun
  exact ⟨_, hrun, history, State.finishFs_caller_self _ _ _, rfl, link, script⟩

/-- Settles O52: four attempts are not acknowledged, and the bytes of the fifth and last hold no ENQ either. -/
theorem neverAcknowledgedSend : Obligations.NeverAcknowledgedSend := by
  intro s rxs rest hp hdiag hst hn hlen hrxs h
  obtain ⟨rxs, last, rfl⟩ := (List.eq_nil_or_concat' rxs).resolve_left (by rintro rfl; simp at hlen)
  have four : rxs.length = 4 := by simpa using hlen
  obtain ⟨u, ⟨history, link, slots, script⟩, hrun⟩ := runSteps_attempts hp hdiag hst (by omega)
    (fun rx hrx => hrxs rx (by simp [hrx])) h
  rw [fsAttemptDone_last (hrxs last (by simp)) (by omega), four] at hrun
  exact ⟨_, hrun, history, State.finishFs_caller_self _ _ _, rfl, link, slots, script⟩

end Sys2Proof.Machine
end

section
/-! PROOFS. The acceptance of unit F's commands (40_command_protocol R100 to R115): a command is answered, by a check
that fails or at once, or starts its frame on the idle FS. -/

namespace Sys2Proof.Machine

/-! ### Answers and checks -/

theorem serialClass_idle {s : State} (h : s.fs.st = .idle) (k : Result) : serialClass s k = k := by
  simp [serialClass, State.fsIdle, h]

/-- A slot that is unbound or out of range is no slot to send to (30_encoding R75). -/
theorem State.boundSlot_none {s : State} {slot : Byte}
    (h : s.params.nt ≤ slot.toNat ∨ ∃ sl, s.slots[slot.toNat]? = some sl ∧ sl.bound = false) :
    s.boundSlot slot = none := by
  rw [← Option.not_isSome_iff_eq_none, Option.isSome_iff_exists]
  rintro ⟨sl, hsl⟩
  obtain ⟨in_range, in_file, bound⟩ := State.boundSlot_some hsl
  rcases h with out_of_range | ⟨sl', in_file', unbound⟩
  · omega
  · rw [in_file, Option.some.injEq] at in_file'
    rw [in_file', unbound] at bound
    cases bound

theorem speedOk_iff (speed : Byte) : speedOk speed = true ↔ speed.toNat ≤ 127 := by
  simp [speedOk, BitVec.le_def]

theorem dccAddr?_of_le {addr : BitVec 16} (h : addr.toNat ≤ 16383) :
    dccAddr? addr = some (BitVec.ofNat 14 addr.toNat) := by
  have valid : addr ≤ 0x3FFF#16 := BitVec.le_def.2 h
  rw [dccAddr?, if_pos valid]
  simp [BitVec.extractLsb']

theorem dccAddr?_of_gt {addr : BitVec 16} (h : 16383 < addr.toNat) : dccAddr? addr = none :=
  if_neg fun valid => Nat.not_le.2 h (BitVec.le_def.1 valid)

theorem Params.funcRow_of_lt {p : Params} {num : Byte} (h : num.toNat < 13) :
    p.funcRow num = some p.funcTable[num.toNat] :=
  Vector.getElem?_eq_getElem h

theorem Params.funcRow_of_ge {p : Params} {num : Byte} (h : 12 < num.toNat) : p.funcRow num = none :=
  Vector.getElem?_eq_none h

/-! ### Commands that are answered at once -/

/-- Settles O9: the link is open, or the call fails, or it succeeds. -/
theorem openOutcome : Obligations.OpenOutcome := by
  intro s idle
  rw [show exec .openSerial s = _ from serialClass_idle idle _]
  refine ⟨fun link => ?_, fun link hd => ?_, fun link hd => ?_⟩
  · rw [if_pos link]
    rfl
  · rw [if_neg (by simp [link]), hd]
    rfl
  · rw [if_neg (by simp [link]), hd]
    rfl

/-- Settles O10: the link is closed, or the call fails, or it succeeds. -/
theorem closeOutcome : Obligations.CloseOutcome := by
  intro s idle
  rw [show exec .closeSerial s = _ from serialClass_idle idle _]
  refine ⟨fun link => whenSerialOpen_closed link _, fun link hd => ?_, fun link hd => ?_⟩
  · rw [whenSerialOpen_open link, hd]
    rfl
  · rw [whenSerialOpen_open link, hd]
    rfl

/-- Settles O11: the switch is written and the command completes, without a check. -/
theorem setDiagOutcome : Obligations.SetDiagOutcome := fun _ => ⟨rfl, rfl⟩

/-- Settles O12: the slot's check and the address's check, and then the binding. -/
theorem bindTrainOutcome : Obligations.BindTrainOutcome := by
  intro s slot addr
  simp only [exec, execBindTrain]
  refine ⟨fun in_range valid => ?_, fun h => ?_⟩
  · rw [if_pos in_range, dccAddr?_of_le valid]
    rfl
  · split
    · rename_i in_range
      rw [dccAddr?_of_gt (h.resolve_left (Nat.not_le.2 in_range))]
      rfl
    · rfl

/-! ### Frames as numbers -/

/-- A frame with a body of five bytes ends with their exclusive-or. -/
theorem frameOf_five (a b c d e : Byte) : frameOf [a, b, c, d, e] = [a, b, c, d, e, a ^^^ b ^^^ c ^^^ d ^^^ e] := by
  simp [frameOf, xorFold, BitVec.xor_assoc]

theorem frameOf_three (a b c : Byte) : frameOf [a, b, c] = [a, b, c, a ^^^ b ^^^ c] := by
  simp [frameOf, xorFold, BitVec.xor_assoc]

/-- A speed that is not above 127 goes into the frame whole, under the direction's bit (R105). -/
theorem throttleBody_eq (a : DccAddr) (dir : Dir) {speed : Byte} (h : speed.toNat ≤ 127) :
    throttleBody a dir speed =
      [0xE4#8, 0x13#8, BitVec.ofNat 8 (a.toNat / 256), BitVec.ofNat 8 (a.toNat % 256),
        BitVec.ofNat 8 ((if dir = .forward then 128 else 0) + speed.toNat)] := by
  have low_bits : (speed.extractLsb' 0 7).toNat = speed.toNat := by
    rw [field_toNat]
    omega
  rw [throttleBody, dir_bit_shift, ← ofNat_speed_byte, low_bits, ofNat_addrHi, ofNat_addrLo]
  rfl

theorem functionBody_eq (g : Byte) (a : DccAddr) (v : Byte) :
    functionBody g a v =
      [g, 0x00#8, BitVec.ofNat 8 (a.toNat / 256), BitVec.ofNat 8 (a.toNat % 256), v] := by
  rw [functionBody, ofNat_addrHi, ofNat_addrLo]
  rfl

/-- The offset byte of an accessory frame: bit 7 set, the operand's bits 6 to 1, and bit 0 the command's (R114). -/
theorem ofNat_accessory_b2 (offset : Byte) (x : BitVec 1) :
    BitVec.ofNat 8 (128 + 2 * (offset.toNat / 2 % 64) + x.toNat) = 1#1 ++ offset.extractLsb' 1 6 ++ x := by
  apply ofNat_eq_of_toNat
  rw [accessory_b2_toNat, field_toNat]
  rfl

theorem accessoryBody_activate (addr offset : Byte) :
    accessoryBody addr offset 0x01#8 =
      [0x52#8, addr, BitVec.ofNat 8 (128 + 2 * (offset.toNat / 2 % 64) + 1)] := by
  rw [accessoryBody, (accessory_b2 offset).2, ← ofNat_accessory_b2]
  rfl

theorem accessoryBody_deactivate (addr offset : Byte) :
    accessoryBody addr offset 0x00#8 =
      [0x52#8, addr, BitVec.ofNat 8 (128 + 2 * (offset.toNat / 2 % 64))] := by
  rw [accessoryBody, (accessory_b2 offset).1, ← ofNat_accessory_b2]
  rfl

/-! ### Sends -/

/-- Settles O13: the slot's check, the speed's and the link's, in that order, and then the frame. -/
theorem throttleOutcome : Obligations.ThrottleOutcome := by
  intro s slot dir speed idle
  rw [show exec (.throttle slot dir speed) s = _ from serialClass_idle idle _]
  refine ⟨fun sl in_range in_file bound => ?_, fun h => ?_⟩
  · rw [State.boundSlot_of in_range in_file bound]
    refine ⟨fun valid link => ?_, fun invalid => ?_, fun valid link => ?_⟩
    · simp only [(speedOk_iff speed).2 valid, if_true, whenSerialOpen_open link, reading_slotAddr bound, startTx,
        throttleBody_eq _ _ valid, frameOf_five]
      rfl
    · exact if_neg fun ok => Nat.not_le.2 invalid ((speedOk_iff speed).1 ok)
    · exact (if_pos ((speedOk_iff speed).2 valid)).trans (whenSerialOpen_closed link _)
  · rw [State.boundSlot_none h]
    rfl

/-- Settles O14: the slot's check, the number's and the link's, in that order, and then the group byte and the
frame. -/
theorem functionOutcome : Obligations.FunctionOutcome := by
  intro s slot num sw idle
  rw [show exec (.function slot num sw) s = _ from serialClass_idle idle _]
  refine ⟨fun sl in_range in_file bound => ?_, fun h => ?_⟩
  · rw [State.boundSlot_of in_range in_file bound]
    refine ⟨fun valid link => ?_, fun invalid => ?_, fun valid link => ?_⟩
    · simp only [Params.funcRow_of_lt valid, whenSerialOpen_open link, reading_slotAddr bound,
        reading_slotGrp bound, startTx, functionBody_eq, frameOf_five]
      cases sw <;> rfl
    · simp only [Params.funcRow_of_ge invalid]
      rfl
    · simp only [Params.funcRow_of_lt (Nat.lt_succ_of_le valid), whenSerialOpen_closed link]
      rfl
  · rw [State.boundSlot_none h]
    rfl

/-- Settles O15: the link's check, and then the frame. -/
theorem accessoryOutcome : Obligations.AccessoryOutcome := by
  intro s addr offset idle
  rw [show exec (.activate addr offset) s = _ from serialClass_idle idle _,
    show exec (.deactivate addr offset) s = _ from serialClass_idle idle _]
  refine ⟨fun link => ?_, fun link => ⟨whenSerialOpen_closed link _, whenSerialOpen_closed link _⟩⟩
  rw [whenSerialOpen_open link, whenSerialOpen_open link, accessoryBody_activate, accessoryBody_deactivate,
    startTx, startTx, frameOf_three, frameOf_three]
  exact ⟨rfl, rfl⟩

end Sys2Proof.Machine
end

section
/-! PROOFS. Bytes and masks: what a frame's checksum detects (40_command_protocol R119), and a group byte under the
calls on its group (R111, R113). -/

namespace Sys2Proof.Machine

/-! ### The checksum -/

theorem xorFold_cons (b : Byte) (f : List Byte) : xorFold (b :: f) = b ^^^ xorFold f := rfl

/-- One byte replaced: the old byte leaves the exclusive-or, the new one enters it. -/
theorem xorFold_set {f : List Byte} {n : Nat} {old : Byte} (h : f[n]? = some old) (b : Byte) :
    old ^^^ xorFold (f.set n b) = b ^^^ xorFold f := by
  induction f generalizing n with
  | nil => cases h
  | cons c f ih =>
    cases n with
    | zero =>
      cases h
      rw [List.set_cons_zero, xorFold_cons, xorFold_cons]
      ac_rfl
    | succ n =>
      calc old ^^^ xorFold ((c :: f).set (n + 1) b) = c ^^^ (old ^^^ xorFold (f.set n b)) := by
            rw [List.set_cons_succ, xorFold_cons]; ac_rfl
        _ = c ^^^ (b ^^^ xorFold f) := by rw [ih h]
        _ = b ^^^ xorFold (c :: f) := by rw [xorFold_cons]; ac_rfl

theorem xorFold_zipWith {f d : List Byte} (h : d.length = f.length) :
    xorFold (List.zipWith (· ^^^ ·) f d) = xorFold f ^^^ xorFold d := by
  induction f generalizing d with
  | nil => simp [List.length_eq_zero_iff.1 h, xorFold]
  | cons b f ih =>
    cases d with
    | nil => cases h
    | cons c d =>
      rw [List.zipWith_cons_cons, xorFold_cons, xorFold_cons, xorFold_cons, ih (Nat.succ.inj h)]
      ac_rfl

theorem xorFold_perm {f g : List Byte} (h : g.Perm f) : xorFold g = xorFold f := by
  induction h with
  | nil => rfl
  | cons b _ ih => rw [xorFold_cons, xorFold_cons, ih]
  | swap b c f => simp only [xorFold_cons]; ac_rfl
  | trans _ _ ih ih' => exact ih.trans ih'

/-- Settles O20: how each of the three changes moves the exclusive-or of the bytes. -/
theorem checksumDetection : Obligations.ChecksumDetection := by
  intro f hf
  refine ⟨fun n b old hold hne undetected => ?_, fun d hd => ?_, fun g hg => (xorFold_perm hg).trans hf⟩
  · have same_byte := xorFold_set hold b
    rw [undetected, hf, BitVec.xor_zero, BitVec.xor_zero] at same_byte
    exact hne same_byte.symm
  · rw [xorFold_zipWith hd, hf, BitVec.zero_xor]

/-! ### Group bytes -/

theorem or_and_not_self (v m : Byte) : (v ||| m) &&& ~~~m = v &&& ~~~m := by
  rw [BitVec.and_or_distrib_right, BitVec.and_not_self]
  exact BitVec.or_zero

theorem and_not_or_self (v m : Byte) : v &&& ~~~m ||| m = v ||| m := by
  ext i hi
  cases bit : m[i] <;> simp [bit]

theorem and_not_of_disjoint {m k : Byte} (h : m &&& k = 0x00#8) : m &&& ~~~k = m :=
  calc m &&& ~~~k = m &&& k ||| m &&& ~~~k := by rw [h, BitVec.zero_or]
    _ = m := by rw [← BitVec.and_or_distrib_left, BitVec.or_not_self, BitVec.and_allOnes]

/-- Settles O22: a mask set and then cleared is cleared, a mask cleared and then set is set. -/
theorem groupByteLaw : Obligations.GroupByteLaw := by
  intro row v m
  refine ⟨rfl, rfl, fun on_mask off_mask => ?_⟩
  simp only [groupByte, on_mask, off_mask]
  exact ⟨or_and_not_self v m, and_not_or_self v m⟩

/-- An ON and an OFF whose masks do not overlap can change places. -/
theorem groupByte_on_off_comm {a b : FuncRow} (h : a.onMask &&& b.offMask = 0x00#8) (v : Byte) :
    groupByte b .off (groupByte a .on v) = groupByte a .on (groupByte b .off v) := by
  simp only [groupByte, BitVec.and_or_distrib_right, and_not_of_disjoint h]

/-- Two calls can change places unless one is ON, the other OFF, and the masks overlap. -/
theorem groupByte_comm {x y : FuncRow × Switch}
    (hxy : x.2 = .on → y.2 = .off → x.1.onMask &&& y.1.offMask = 0x00#8)
    (hyx : y.2 = .on → x.2 = .off → y.1.onMask &&& x.1.offMask = 0x00#8) (v : Byte) :
    groupByte y.1 y.2 (groupByte x.1 x.2 v) = groupByte x.1 x.2 (groupByte y.1 y.2 v) := by
  obtain ⟨a, p⟩ := x
  obtain ⟨b, q⟩ := y
  cases p <;> cases q
  case on.on => simp only [groupByte]; ac_rfl
  case on.off => exact groupByte_on_off_comm (hxy rfl rfl) v
  case off.on => exact (groupByte_on_off_comm (hyx rfl rfl) v).symm
  case off.off => simp only [groupByte]; ac_rfl

theorem groupFold_append_last (l : List (FuncRow × Switch)) (row : FuncRow) (sw : Switch) (v : Byte) :
    groupFold (l ++ [(row, sw)]) v = groupByte row sw (groupFold l v) := by
  simp [groupFold]

theorem groupByte_on_and_mask (row : FuncRow) (v : Byte) : groupByte row .on v &&& row.onMask = row.onMask := by
  ext i hi
  cases bit : row.onMask[i] <;> simp [groupByte, bit]

theorem groupByte_off_and_mask (row : FuncRow) (v : Byte) : groupByte row .off v &&& row.offMask = 0x00#8 := by
  rw [groupByte, BitVec.and_assoc, BitVec.not_and_self]
  exact BitVec.and_zero

/-- Settles O23: calls that can change places two by two can be put in any order, and the last call sets or clears
its own mask whatever came before. -/
theorem groupOrder : Obligations.GroupOrder := by
  refine ⟨fun l m v perm disjoint => ?_, fun l row v => ?_⟩
  · exact perm.foldl_eq' (fun x hx y hy => groupByte_comm (disjoint x hx y hy) (disjoint y hy x hx)) v
  · rw [groupFold_append_last, groupFold_append_last]
    exact ⟨groupByte_on_and_mask row _, groupByte_off_and_mask row _⟩

end Sys2Proof.Machine
end

section
/-! PROOFS. The acceptance of unit S's commands (41_sensor_controller R140 to R150): a command is answered, by a check
that fails or at once, or starts on the lowest idle bus sequencer. -/

namespace Sys2Proof.Machine

/-! ### The bus itself -/

/-- Settles O24: the bus is open, or the call fails, or it succeeds. -/
theorem openBusOutcome : Obligations.OpenBusOutcome := by
  intro s
  simp only [exec, execOpenBus]
  refine ⟨fun link => ?_, fun link hd => ?_, fun link hd => ?_⟩
  · rw [if_pos link]
    rfl
  · rw [if_neg (by simp [link]), hd]
    rfl
  · rw [if_neg (by simp [link]), hd]
    rfl

theorem busAllClass_idle {s : State} (h : ∀ b ∈ s.bs, b.st = .idle) (k : Result) : busAllClass s k = k := by
  have all_idle : s.busAllIdle = true := by simpa [State.busAllIdle] using h
  rw [busAllClass, all_idle, acceptWhen_true]

/-- Settles O25: the bus is closed, or the call fails, or it succeeds. -/
theorem closeBusOutcome : Obligations.CloseBusOutcome := by
  intro s idle
  rw [show exec .closeBus s = _ from busAllClass_idle idle _]
  refine ⟨fun link => whenBusOpen_closed link _, fun link hd => ?_, fun link hd => ?_⟩
  · rw [whenBusOpen_open link, hd]
    rfl
  · rw [whenBusOpen_open link, hd]
    rfl

/-! ### Ports and banks -/

theorem portMask?_of_le {port : Byte} (h1 : 1 ≤ port.toNat) (h8 : port.toNat ≤ 8) :
    portMask? port = some (BitVec.ofNat 8 (2 ^ (port.toNat - 1))) := by
  rw [portMask?, if_pos ⟨BitVec.le_def.2 h1, BitVec.le_def.2 h8⟩]
  refine congrArg some (BitVec.eq_of_toNat_eq ?_)
  simp [Nat.shiftLeft_eq]

/-- An invalid port or bank has no mask or is no bank (30_encoding R75). -/
theorem portMask?_none_or_bank?_none {port bank : Byte}
    (h : port.toNat < 1 ∨ 8 < port.toNat ∨ (bank ≠ 0x41#8 ∧ bank ≠ 0x42#8)) :
    portMask? port = none ∨ bank? bank = none := by
  rcases h with low | high | ⟨hA, hB⟩
  · exact .inl (if_neg fun ⟨h1, _⟩ => Nat.not_le.2 low (BitVec.le_def.1 h1))
  · exact .inl (if_neg fun ⟨_, h8⟩ => Nat.not_le.2 high (BitVec.le_def.1 h8))
  · exact .inr ((if_neg hA).trans (if_neg hB))

/-- The two numbers of banks (30_encoding R75). -/
theorem exists_bank?_eq_some {bank : Byte} (h : bank = 0x41#8 ∨ bank = 0x42#8) : ∃ side, bank? bank = some side := by
  rcases h with rfl | rfl
  · exact ⟨.a, rfl⟩
  · exact ⟨.b, rfl⟩

/-- OK with the mask of a port as its data byte (R148, 30_encoding R80). -/
theorem hrw_ok_portMask {port : Nat} (h1 : 1 ≤ port) (h8 : port ≤ 8) :
    hrw .ok (BitVec.ofNat 8 (2 ^ (port - 1))) = BitVec.ofNat 32 (256 * 2 ^ (port - 1)) := by
  interval_cases port <;> rfl

/-- Settles O27: the port's check and the bank's check, and then the mask. -/
theorem makeSensorOutcome : Obligations.MakeSensorOutcome := by
  intro s ctrl bank port
  simp only [exec, execMakeSensor]
  refine ⟨fun valid h1 h8 => ?_, fun h => ?_⟩
  · obtain ⟨side, hside⟩ := exists_bank?_eq_some valid
    rw [portMask?_of_le h1 h8, hside, State.answered, ← hrw_ok_portMask h1 h8]
    rfl
  · rcases portMask?_none_or_bank?_none h with no_mask | no_bank
    · rw [no_mask]
      rfl
    · rw [no_bank]
      cases portMask? port <;> rfl

/-! ### The lowest idle sequencer -/

theorem State.lowestIdleBs_of {s : State} {j : Nat} {b : Bs} (hj : s.bs[j]? = some b) (hb : b.st = .idle)
    (hlow : ∀ i < j, ∀ q, s.bs[i]? = some q → q.st ≠ .idle) : s.lowestIdleBs = some j := by
  obtain ⟨hlt, rfl⟩ := List.getElem?_eq_some_iff.1 hj
  refine List.findIdx?_eq_some_iff_getElem.2 ⟨hlt, by simpa using hb, fun i hi => ?_⟩
  simpa using hlow i hi _ (List.getElem?_eq_getElem (hi.trans hlt))

theorem busClass_lowest {s : State} {j : Nat} {b : Bs} (hj : s.bs[j]? = some b) (hb : b.st = .idle)
    (hlow : ∀ i < j, ∀ q, s.bs[i]? = some q → q.st ≠ .idle) (k : Nat → Result) : busClass s k = k j := by
  rw [busClass, State.lowestIdleBs_of hj hb hlow]

/-- Settles O28: the port's check, the bank's and the link's, in that order, and then the WAIT starts. -/
theorem waitAcceptance : Obligations.WaitAcceptance := by
  intro s ctrl bank port j b hj hb hlow
  rw [show exec (.wait ctrl bank port) s = _ from busClass_lowest hj hb hlow _]
  refine ⟨fun h1 h8 => ?_, fun h => ?_⟩
  · rw [portMask?_of_le h1 h8]
    refine ⟨?_, ?_, fun valid link => ?_⟩
    · rintro rfl link
      simp only [bank?, if_true, whenBusOpen_open link, State.modifyBs_eq hj]
      rfl
    · rintro rfl link
      simp only [bank?, whenBusOpen_open link, State.modifyBs_eq hj]
      rfl
    · obtain ⟨side, hside⟩ := exists_bank?_eq_some valid
      simp only [hside, whenBusOpen_closed link]
      rfl
  · rcases portMask?_none_or_bank?_none h with no_mask | no_bank
    · rw [no_mask]
      rfl
    · rw [no_bank]
      cases portMask? port <;> rfl

end Sys2Proof.Machine
end

section
/-! PROOFS. The one step of a bus sequencer (41_sensor_controller R142, R145, R151 to R157): which transaction its state
performs, and what it does under each answer. -/

namespace Sys2Proof.Machine

/-! ### The registers of one sequencer -/

/-- s with b as the registers of BS[j]. -/
def State.setBs (j : Nat) (b : Bs) (s : State) : State := { s with bs := s.bs.set j b }

section
variable {s : State} {j : Nat} {b : Bs} (hj : s.bs[j]? = some b)
include hj

theorem State.setBs_getElem? (c : Bs) : (s.setBs j c).bs[j]? = some c := by
  obtain ⟨hlt, _⟩ := List.getElem?_eq_some_iff.1 hj
  exact List.getElem?_set_self hlt

theorem State.setBsSt_eq (v : BsSt) : s.setBsSt j v = s.setBs j { b with st := v } :=
  State.modifyBs_eq hj _

theorem State.setBsTmp_setBsSt_eq (x : Byte) (v : BsSt) :
    (s.setBsTmp j x).setBsSt j v = s.setBs j { b with tmp := x, st := v } :=
  (State.setBsTmp_setBsSt j x v s).trans (State.modifyBs_eq hj _)

theorem State.finishBs_eq (c : CallerId) (k : ResultCode) :
    s.finishBs j c k = (s.deliver c k 0x00#8).setBs j { b with st := .idle } :=
  State.setBsSt_eq (s := s.deliver c k 0x00#8) hj .idle

end

/-! ### BUS_STEP under each answer -/

/-- s once the command of BS[j], whose registers are b, has ended with BusError (R142). -/
def State.busEnded (j : Nat) (b : Bs) (s : State) : State :=
  { s with
    bs := s.bs.set j { b with st := .idle }
    callers := Callers.put b.owner (.done 0x00000002#32) s.callers }

section
variable {α : Type} {s : State} {j : Nat} {b : Bs} {r : Answer α} (ev : Reply α → Event) (k : α → State → State)

theorem busStep_closed (hj : s.bs[j]? = some b) (link : s.busOpen = false) :
    busStep j b.owner r ev k s = s.busEnded j b := by
  simp only [busStep, link]
  exact State.finishBs_eq hj _ _

theorem busStep_blocked (link : s.busOpen = true) (hr : r = .blocked) : busStep j b.owner r ev k s = s := by
  simp [busStep, link, hr]

theorem busStep_fail (hj : s.bs[j]? = some b) (link : s.busOpen = true) (hr : r = .fail) :
    busStep j b.owner r ev k s =
      { s.busEnded j b with busOpen := false, history := s.history ++ [⟨.bs j, ev .fail⟩] } := by
  simp only [busStep, link, hr, if_true]
  exact State.finishBs_eq (by exact hj) _ _

theorem busStep_ok (link : s.busOpen = true) {v : α} (hr : r = .ok v) :
    busStep j b.owner r ev k s = k v (s.log (.bs j) (ev (.ok v))) := by
  simp [busStep, link, hr]

/-- BUS_STEP goes on only from the state in which its transaction has just been logged. -/
theorem busStep_congr {k' : α → State → State}
    (h : ∀ v, k v (s.log (.bs j) (ev (.ok v))) = k' v (s.log (.bs j) (ev (.ok v)))) :
    busStep j b.owner r ev k s = busStep j b.owner r ev k' s := by
  cases r <;> simp only [busStep, h]

end

/-! ### The registers after a transaction -/

/-- The registers b after the BusRead of their state returned v (R151, R152, R154, R156). -/
def Bs.afterRead (b : Bs) (v : Byte) : Bs :=
  match b.st with
  | .wUnlatch => { b with st := .wIoffRd }
  | .wIoffRd => { b with st := .wIoffWr, tmp := v }
  | .wPollRd => { b with st := if v &&& b.mask ≠ 0x00#8 then .wSleep else .wIonRd, tmp := v }
  | .wIonRd => { b with st := .wIonWr, tmp := v }
  | .idle | .cfgDirA | .cfgDirB | .cfgPuA | .cfgIeA | .wIoffWr | .wSleep | .wIonWr => b

/-- Where a state goes on once its BusWrite is answered ok; none when the command ends with it (R145, R153, R157). -/
def BsSt.afterWrite : BsSt → Option BsSt
  | .cfgDirA => some .cfgDirB
  | .cfgDirB => some .cfgPuA
  | .cfgPuA => some .cfgIeA
  | .wIoffWr => some .wPollRd
  | .cfgIeA | .wIonWr => none
  | .idle | .wUnlatch | .wIoffRd | .wPollRd | .wSleep | .wIonRd => none

/-- How BS[j], whose registers are b, goes on once the BusWrite of their state is answered ok. -/
def Bs.goOnWritten (j : Nat) (b : Bs) : State → State :=
  match b.st.afterWrite with
  | some v => State.setBsSt j v
  | none => State.finishBs j b.owner .ok

/-! ### The turn by the transaction of the state -/

section
variable {s : State} {j : Nat} {b : Bs} (hj : s.bs[j]? = some b)
include hj

theorem bsTurn_eq_busRead (hb : b.st.reads = true) :
    bsTurn j s = .next (busRead j b.owner b.dev b.readOff (fun v => State.setBs j (b.afterRead v)) s) := by
  rw [bsTurn, hj]
  obtain ⟨st, dev, cap, ind, mask, tmp, owner⟩ := b
  cases st with
  | wUnlatch => exact congrArg _ (busStep_congr _ _ fun v => State.setBsSt_eq (by exact hj) _)
  | wIoffRd | wPollRd | wIonRd =>
    exact congrArg _ (busStep_congr _ _ fun v => State.setBsTmp_setBsSt_eq (by exact hj) _ _)
  | idle | cfgDirA | cfgDirB | cfgPuA | cfgIeA | wIoffWr | wSleep | wIonWr => cases hb

theorem bsTurn_eq_busWrite (hb : b.st.writes = true) :
    bsTurn j s = .next (busWrite j b.owner b.dev (b.writeArgs s.params).1 (b.writeArgs s.params).2
      (b.goOnWritten j) s) := by
  rw [bsTurn, hj]
  obtain ⟨st, dev, cap, ind, mask, tmp, owner⟩ := b
  cases st with
  | cfgDirA | cfgDirB | cfgPuA | cfgIeA | wIoffWr | wIonWr => rfl
  | idle | wUnlatch | wIoffRd | wPollRd | wSleep | wIonRd => cases hb

theorem bsTurn_sleep (hb : b.st = .wSleep) :
    bsTurn j s = .next ((s.log (.bs j) (.sleep pollMs)).setBs j { b with st := .wPollRd }) := by
  simp only [bsTurn, hj, bsAct, hb]
  exact congrArg _ (State.setBsSt_eq (by exact hj) _)

theorem bsTurn_read_ok (link : s.busOpen = true) (hb : b.st.reads = true) {v : Byte} (hd : s.draw.read = .ok v) :
    bsTurn j s = .next ((s.log (.bs j) (.busRead b.dev b.readOff (.ok v))).setBs j (b.afterRead v)) := by
  rw [bsTurn_eq_busRead hj hb, busRead, busStep_ok _ _ link hd]

/-- A write with which a command goes on. -/
theorem bsTurn_write_ok (link : s.busOpen = true) (hb : b.st.writes = true) (hd : s.draw.write = .ok ())
    {v : BsSt} (hv : b.st.afterWrite = some v) :
    bsTurn j s = .next ((s.log (.bs j) (.busWrite b.dev (b.writeArgs s.params).1 (b.writeArgs s.params).2
      (.ok ()))).setBs j { b with st := v }) := by
  rw [bsTurn_eq_busWrite hj hb, busWrite, busStep_ok _ _ link hd, Bs.goOnWritten, hv]
  exact congrArg _ (State.setBsSt_eq (by exact hj) v)

/-- The write with which a command ends. -/
theorem bsTurn_lastWrite_ok (link : s.busOpen = true) (hb : b.st.writes = true) (hd : s.draw.write = .ok ())
    (hv : b.st.afterWrite = none) :
    bsTurn j s = .next (((s.log (.bs j) (.busWrite b.dev (b.writeArgs s.params).1 (b.writeArgs s.params).2
      (.ok ()))).deliver b.owner .ok 0x00#8).setBs j { b with st := .idle }) := by
  rw [bsTurn_eq_busWrite hj hb, busWrite, busStep_ok _ _ link hd, Bs.goOnWritten, hv]
  exact congrArg _ (State.finishBs_eq (by exact hj) _ _)

end

/-- Settles O30: the guard is the same for each state's transaction. -/
theorem busStepGuard : Obligations.BusStepGuard := by
  intro s j b hj
  refine ⟨fun link hb => ?_, fun link hb => ?_, fun link hb => ?_⟩ <;> rw [moveStep]
  · rcases hb with hb | hb
    · rw [bsTurn_eq_busRead hj hb]
      exact congrArg _ (busStep_closed _ _ hj link)
    · rw [bsTurn_eq_busWrite hj hb]
      exact congrArg _ (busStep_closed _ _ hj link)
  · rw [bsTurn_eq_busRead hj hb]
    exact ⟨fun hd => congrArg _ (busStep_blocked _ _ link hd), fun hd => congrArg _ (busStep_fail _ _ hj link hd)⟩
  · rw [bsTurn_eq_busWrite hj hb]
    exact ⟨fun hd => congrArg _ (busStep_blocked _ _ link hd), fun hd => congrArg _ (busStep_fail _ _ hj link hd)⟩

/-- Settles O29: an answered read goes on by afterRead, an answered write by afterWrite. -/
theorem waitStepOutcome : Obligations.WaitStepOutcome := by
  intro s j b hj
  refine ⟨fun link v hd => ?_, fun link hd => ?_, fun hst => bsTurn_sleep hj hst⟩
  · have read (hb : b.st.reads = true) := bsTurn_read_ok hj link hb hd
    obtain ⟨st, dev, cap, ind, mask, tmp, owner⟩ := b
    refine ⟨?_, ?_, ?_, ?_, ?_⟩ <;> rintro rfl
    · exact read rfl
    · exact read rfl
    · intro bit_set
      rw [moveStep, read rfl, Bs.afterRead, if_pos bit_set]
      rfl
    · intro bit_clear
      rw [moveStep, read rfl, Bs.afterRead, if_neg (not_not_intro bit_clear)]
      rfl
    · exact read rfl
  · obtain ⟨st, dev, cap, ind, mask, tmp, owner⟩ := b
    refine ⟨?_, ?_⟩ <;> rintro rfl
    · exact bsTurn_write_ok hj link rfl hd rfl
    · exact bsTurn_lastWrite_ok hj link rfl hd rfl

/-- Settles O26: the acceptance, and then the four writes, the last of which ends the command. -/
theorem configureOutcome : Obligations.ConfigureOutcome := by
  refine ⟨fun s ctrl j b hj hb hlow => ?_, fun s j b hj link hd => ?_⟩
  · rw [show exec (.configure ctrl) s = _ from busClass_lowest hj hb hlow _]
    refine ⟨fun link => ?_, fun link => whenBusOpen_closed link _⟩
    rw [whenBusOpen_open link, State.modifyBs_eq hj]
    rfl
  · obtain ⟨st, dev, cap, ind, mask, tmp, owner⟩ := b
    refine ⟨?_, ?_, ?_, ?_⟩ <;> rintro rfl
    · exact bsTurn_write_ok hj link rfl hd rfl
    · exact bsTurn_write_ok hj link rfl hd rfl
    · exact bsTurn_write_ok hj link rfl hd rfl
    · exact bsTurn_lastWrite_ok hj link rfl hd rfl

end Sys2Proof.Machine
end

section
/-! PROOFS. Runs of bus sequencers on an open bus whose transactions are all answered: a CONFIGURE and a WAIT with the
sequencer stepping alone (41_sensor_controller R146, R158 to R160), and two WAITs whose updates of one indicator
interleave (R162). -/

namespace Sys2Proof.Machine

/-! ### One scripted turn -/

/-- The registers b in another state and with another tmp: the steps of a command change no other register. -/
def Bs.goTo (b : Bs) (st : BsSt) (tmp : Byte) : Bs := { b with st := st, tmp := tmp }

theorem Bs.goTo_self {b : Bs} {st : BsSt} (h : b.st = st) : b.goTo st b.tmp = b := by
  subst h
  rfl

/-- s after a turn of BS[j] that logged e and left it the registers b, the turns `rest` still to come. -/
def State.bsTaken (j : Nat) (b : Bs) (e : Event) (turn : Turn) (rest : List Turn) (s : State) : State :=
  (State.log (.bs j) e { s with script := rest, draw := turn.draw }).setBs j b

section
variable (j : Nat) (b : Bs) (e : Event) (turn : Turn) (rest : List Turn) (s : State)

@[simp] theorem State.bsTaken_busOpen : (s.bsTaken j b e turn rest).busOpen = s.busOpen := rfl
@[simp] theorem State.bsTaken_bs : (s.bsTaken j b e turn rest).bs = s.bs.set j b := rfl
@[simp] theorem State.bsTaken_history : (s.bsTaken j b e turn rest).history = s.history ++ [⟨.bs j, e⟩] := rfl

end

@[simp] theorem State.deliver_caller_self (c : CallerId) (k : ResultCode) (d : Byte) (s : State) :
    (s.deliver c k d).caller c = some (.done (hrw k d)) :=
  Callers.get_put_self _ _ _

/-- The machine can run with the parameters p, the bus is open, and BS[j] holds the registers b. -/
structure OpenBs (p : Params) (j : Nat) (b : Bs) (s : State) : Prop where
  wellFormed : p.wellFormed = true
  params : s.params = p
  link : s.busOpen = true
  registers : s.bs[j]? = some b

namespace OpenBs

variable {p : Params} {s : State} {j : Nat} {b c : Bs} {st next : BsSt} {tmp v x : Byte} {rest : List Turn}

theorem taken (h : OpenBs p j b s) {e : Event} {turn : Turn} : OpenBs p j c (s.bsTaken j c e turn rest) :=
  ⟨h.wellFormed, h.params, h.link, State.setBs_getElem? (by exact h.registers) c⟩

theorem taken_other (h : OpenBs p j b s) {i : Nat} (hij : i ≠ j) {e : Event} {turn : Turn} :
    OpenBs p j b (s.bsTaken i c e turn rest) :=
  ⟨h.wellFormed, h.params, h.link, (List.getElem?_set_ne hij).trans h.registers⟩

/-- A run whose first turn is scripted; taking it leaves the registers and the bus. -/
theorem runSteps_turn {t : State} {turn : Turn} (h : OpenBs p j b s) (hs : s.script = turn :: rest)
    (ht : OpenBs p j b { s with script := rest, draw := turn.draw } →
      moveStep turn.move { s with script := rest, draw := turn.draw } = .next t) (n : Nat) :
    runSteps (n + 1) s = runSteps n t := by
  refine runSteps_succ ?_ n
  rw [step, if_pos (h.params ▸ h.wellFormed), State.nextTurn_cons hs, State.takeTurn_cons hs,
    ht ⟨h.wellFormed, h.params, h.link, h.registers⟩]

theorem runSteps_read (h : OpenBs p j (b.goTo st tmp) s) (hb : st.reads = true)
    (hc : (b.goTo st tmp).afterRead v = b.goTo next x) (hs : s.script = bsTurnRead j v :: rest) (n : Nat) :
    runSteps (n + 1) s = runSteps n (s.bsTaken j (b.goTo next x)
      (.busRead b.dev (b.goTo st tmp).readOff (.ok v)) (bsTurnRead j v) rest) :=
  hc ▸ h.runSteps_turn hs (fun h => bsTurn_read_ok h.registers h.link hb rfl) n

theorem runSteps_write (h : OpenBs p j (b.goTo st tmp) s) (hb : st.writes = true)
    (hv : st.afterWrite = some next) (hs : s.script = bsTurnWrite j :: rest) (n : Nat) :
    runSteps (n + 1) s = runSteps n (s.bsTaken j (b.goTo next tmp)
      (.busWrite b.dev ((b.goTo st tmp).writeArgs p).1 ((b.goTo st tmp).writeArgs p).2 (.ok ()))
      (bsTurnWrite j) rest) :=
  h.params ▸ h.runSteps_turn hs (fun h => bsTurn_write_ok h.registers h.link hb rfl hv) n

theorem runSteps_lastWrite (h : OpenBs p j (b.goTo st tmp) s) (hb : st.writes = true) (hv : st.afterWrite = none)
    (hs : s.script = bsTurnWrite j :: rest) (n : Nat) :
    runSteps (n + 1) s = runSteps n ((s.bsTaken j (b.goTo .idle tmp)
      (.busWrite b.dev ((b.goTo st tmp).writeArgs p).1 ((b.goTo st tmp).writeArgs p).2 (.ok ()))
      (bsTurnWrite j) rest).deliver b.owner .ok 0x00#8) :=
  h.params ▸ h.runSteps_turn hs (fun h => bsTurn_lastWrite_ok h.registers h.link hb rfl hv) n

theorem runSteps_sleep (h : OpenBs p j (b.goTo .wSleep tmp) s) (hs : s.script = bsTurnSleep j :: rest) (n : Nat) :
    runSteps (n + 1) s =
      runSteps n (s.bsTaken j (b.goTo .wPollRd tmp) (.sleep pollMs) (bsTurnSleep j) rest) :=
  h.runSteps_turn hs (fun h => bsTurn_sleep h.registers rfl) n

end OpenBs

/-! ### CONFIGURE -/

/-- Settles O55: the four writes, one turn each. -/
theorem configureWritesFour : Obligations.ConfigureWritesFour := by
  intro s j b rest hp link hj hst h
  have dirA : OpenBs s.params j (b.goTo .cfgDirA b.tmp) s := ⟨hp, rfl, link, by rw [Bs.goTo_self hst, hj]⟩
  refine ⟨_, (dirA.runSteps_write rfl rfl h 3).trans <| (dirA.taken.runSteps_write rfl rfl rfl 2).trans <|
    (dirA.taken.taken.runSteps_write rfl rfl rfl 1).trans <|
    dirA.taken.taken.taken.runSteps_lastWrite rfl rfl rfl 0, ?_, ?_, ?_, ?_, ?_⟩
  · simp [configureEvents, Bs.writeArgs, Bs.goTo, Params.regOff, Params.bankOffsets]
  · exact State.deliver_caller_self _ _ _ _
  · simp [Bs.goTo]
  · simpa using link
  · rfl

/-! ### WAIT -/

theorem Bs.afterRead_poll_set {b : Bs} {v : Byte} (hv : v &&& b.mask ≠ 0x00#8) (tmp : Byte) :
    (b.goTo .wPollRd tmp).afterRead v = b.goTo .wSleep v :=
  congrArg (b.goTo · v) (if_pos hv)

theorem Bs.afterRead_poll_clear {b : Bs} {v : Byte} (hv : v &&& b.mask = 0x00#8) (tmp : Byte) :
    (b.goTo .wPollRd tmp).afterRead v = b.goTo .wIonRd v :=
  congrArg (b.goTo · v) (if_neg (not_not_intro hv))

/-- From s to u the WAIT of BS[j] has appended the events es and is about to poll, the turns `rest` still to come. -/
structure Polling (p : Params) (j : Nat) (b : Bs) (es : List Entry) (rest : List Turn) (s u : State) : Prop where
  registers : ∃ tmp, OpenBs p j (b.goTo .wPollRd tmp) u
  history : u.history = s.history ++ es
  script : u.script = rest

section
variable {p : Params} {j : Nat} {b : Bs} {tmp : Byte} {rest : List Turn} {s : State}

/-- The unlatch read and the indicator's update (R151 to R153). -/
theorem runSteps_indicatorOff {u i1 : Byte} (h : OpenBs p j (b.goTo .wUnlatch tmp) s)
    (hs : s.script = bsTurnRead j u :: bsTurnRead j i1 :: bsTurnWrite j :: rest) :
    ∃ t, Polling p j b [⟨.bs j, .busRead b.dev b.cap (.ok u)⟩, ⟨.bs j, .busRead b.dev b.ind (.ok i1)⟩,
        ⟨.bs j, .busWrite b.dev b.ind (i1 &&& ~~~b.mask) (.ok ())⟩] rest s t ∧
      ∀ n, runSteps (n + 3) s = runSteps n t :=
  ⟨_, ⟨⟨_, h.taken.taken.taken⟩, by simp [Bs.readOff, Bs.writeArgs, Bs.goTo], rfl⟩, fun n =>
    (h.runSteps_read rfl rfl hs _).trans <| (h.taken.runSteps_read rfl rfl rfl _).trans <|
      h.taken.taken.runSteps_write rfl rfl rfl n⟩

/-- Any number of polls that see the bit set, each with its sleep (R154, R155). -/
theorem runSteps_polls {polls : List Byte} (h : OpenBs p j (b.goTo .wPollRd tmp) s)
    (hv : ∀ v ∈ polls, v &&& b.mask ≠ 0x00#8) (hs : s.script = polls.flatMap (pollTurns j) ++ rest) :
    ∃ t, Polling p j b (polls.flatMap (pollEvents j b.dev b.cap)) rest s t ∧
      ∀ n, runSteps (2 * polls.length + n) s = runSteps n t := by
  induction polls generalizing s tmp with
  | nil => exact ⟨s, ⟨⟨tmp, h⟩, by simp, hs⟩, fun n => by simp⟩
  | cons v polls ih =>
    obtain ⟨bit_set, hv⟩ := List.forall_mem_cons.1 hv
    obtain ⟨t, ⟨registers, history, script⟩, hrun⟩ := ih h.taken.taken hv rfl
    refine ⟨t, ⟨registers, by simpa [pollEvents] using history, script⟩, fun n => ?_⟩
    have count : 2 * (v :: polls).length + n = 2 * polls.length + n + 2 := by
      rw [List.length_cons]
      omega
    rw [count]
    exact (h.runSteps_read rfl (Bs.afterRead_poll_set bit_set tmp) hs _).trans
      ((h.taken.runSteps_sleep rfl _).trans (hrun n))

/-- The poll that sees the bit clear, and the indicator's second update, which ends the command (R154, R156, R157). -/
theorem runSteps_indicatorOn {last i2 : Byte} (h : OpenBs p j (b.goTo .wPollRd tmp) s)
    (hlast : last &&& b.mask = 0x00#8)
    (hs : s.script = bsTurnRead j last :: bsTurnRead j i2 :: bsTurnWrite j :: rest) :
    ∃ t, runSteps 3 s = .next t ∧
      t.history = s.history ++ [⟨.bs j, .busRead b.dev b.cap (.ok last)⟩, ⟨.bs j, .busRead b.dev b.ind (.ok i2)⟩,
        ⟨.bs j, .busWrite b.dev b.ind (i2 ||| b.mask) (.ok ())⟩] ∧
      t.caller b.owner = some (.done 0x00000000#32) ∧ t.bs[j]? = some (b.goTo .idle i2) ∧ t.script = rest := by
  refine ⟨_, (h.runSteps_read rfl (Bs.afterRead_poll_clear hlast tmp) hs 2).trans <|
    (h.taken.runSteps_read rfl rfl rfl 1).trans <| h.taken.taken.runSteps_lastWrite rfl rfl rfl 0, ?_, ?_, ?_, ?_⟩
  · simp [Bs.readOff, Bs.writeArgs, Bs.goTo]
  · exact State.deliver_caller_self _ _ _ _
  · rw [State.deliver_bs]
    exact h.taken.taken.taken.registers
  · rfl

end

/-- Settles O56: the indicator is turned off, the polls follow, and the indicator is turned on. -/
theorem waitEventShape : Obligations.WaitEventShape := by
  intro s j b u i1 last i2 polls rest hp link hj hst hpolls hlast h
  simp only [List.cons_append, List.nil_append, List.append_assoc] at h
  have unlatch : OpenBs s.params j (b.goTo .wUnlatch b.tmp) s := ⟨hp, rfl, link, by rw [Bs.goTo_self hst, hj]⟩
  obtain ⟨s₁, ⟨⟨_, first_poll⟩, history₁, script₁⟩, off⟩ := runSteps_indicatorOff unlatch h
  obtain ⟨s₂, ⟨⟨_, last_poll⟩, history₂, script₂⟩, polled⟩ := runSteps_polls first_poll hpolls script₁
  obtain ⟨t, on, history, result, idle, script⟩ := runSteps_indicatorOn last_poll hlast script₂
  refine ⟨t, (off _).trans ((polled 3).trans on), ?_, result, ⟨_, idle, rfl⟩, script⟩
  rw [history, history₂, history₁]

/-- Settles O57: the read, read, write, write of two sequencers. -/
theorem indicatorUpdateLost : Obligations.IndicatorUpdateLost := by
  intro s i j a b x rest hp link hij hi hj ha hb hdev hind hmask h
  have read_i : OpenBs s.params i (a.goTo .wIoffRd a.tmp) s := ⟨hp, rfl, link, by rw [Bs.goTo_self ha, hi]⟩
  have read_j : OpenBs s.params j (b.goTo .wIoffRd b.tmp) s := ⟨hp, rfl, link, by rw [Bs.goTo_self hb, hj]⟩
  refine ⟨_, (read_i.runSteps_read rfl rfl h 3).trans <|
    ((read_j.taken_other hij).runSteps_read rfl rfl rfl 2).trans <|
    ((read_i.taken.taken_other hij.symm).runSteps_write rfl rfl rfl 1).trans <|
    ((read_j.taken_other hij).taken.taken_other hij).runSteps_write rfl rfl rfl 0, ?_, ?_⟩
  · simp [Bs.readOff, Bs.writeArgs, Bs.goTo, hdev, hind]
  · rw [BitVec.and_assoc, BitVec.and_comm _ a.mask, and_not_of_disjoint hmask]

end Sys2Proof.Machine
end

section
/-! PROOFS. The first commands after reset (60_exceptions R201, 70_reset_and_hazards R232): both links are
closed, no slot is bound and every sequencer is idle, so each command ends in the error its own outcome gives. -/

namespace Sys2Proof.Machine

/-- Every slot number is out of range or names an unbound slot after reset (R38). -/
theorem State.resetWith_slot_unbound (p : Params) (slot : Byte) :
    p.nt ≤ slot.toNat ∨ ∃ sl, (State.resetWith p).slots[slot.toNat]? = some sl ∧ sl.bound = false := by
  rcases Nat.lt_or_ge slot.toNat p.nt with in_range | out_of_range
  · exact .inr ⟨Slot.reset, List.getElem?_replicate_of_lt in_range, rfl⟩
  · exact .inl out_of_range

theorem State.resetWith_bs_idle (p : Params) : ∀ b ∈ (State.resetWith p).bs, b.st = .idle := by
  intro b hb
  obtain rfl := List.eq_of_mem_replicate hb
  rfl

/-- There is a first bus sequencer, and it is idle, after reset (R8, R38). -/
theorem State.resetWith_bs_zero {p : Params} (hp : p.wellFormed = true) :
    (State.resetWith p).bs[0]? = some Bs.reset := by
  obtain ⟨-, counts_ok⟩ := Bool.and_eq_true_iff.1 hp
  obtain ⟨-, np_pos⟩ := Bool.and_eq_true_iff.1 counts_ok
  exact List.getElem?_replicate_of_lt (of_decide_eq_true np_pos)

/-- Settles O37: each command by its own outcome, with both links closed, FS idle, no slot bound, and the first bus
sequencer the lowest idle one. -/
theorem resetLinksClosed : Obligations.ResetLinksClosed := by
  intro p c hp s
  have first_bs : s.bs[0]? = some Bs.reset := State.resetWith_bs_zero hp
  have none_below : ∀ i < 0, ∀ q, s.bs[i]? = some q → q.st ≠ .idle := fun i hi => absurd hi (Nat.not_lt_zero i)
  refine ⟨(closeOutcome s rfl).1 rfl,
    fun slot dir speed => (throttleOutcome s slot dir speed rfl).2 (State.resetWith_slot_unbound p slot),
    fun slot num sw => (functionOutcome s slot num sw rfl).2 (State.resetWith_slot_unbound p slot),
    fun addr offset => (accessoryOutcome s addr offset rfl).2 rfl,
    (closeBusOutcome s (State.resetWith_bs_idle p)).1 rfl,
    fun ctrl => (configureOutcome.1 s ctrl 0 Bs.reset first_bs rfl none_below).2 rfl,
    fun ctrl bank port => ?_⟩
  obtain ⟨valid_operands, invalid_operand⟩ := waitAcceptance s ctrl bank port 0 Bs.reset first_bs rfl none_below
  split
  case isTrue valid =>
    obtain ⟨h1, h8, bank_ok⟩ := valid
    exact (valid_operands h1 h8).2.2 bank_ok rfl
  case isFalse invalid =>
    exact invalid_operand (by simpa only [not_and_or, not_or, not_le] using invalid)

end Sys2Proof.Machine
end

section
/-! PROOFS. The reset event (70_reset_and_hazards R230, R231): it makes the block's state that of
`State.resetWith` and keeps the record of what was observed. -/

namespace Sys2Proof.Machine

/-- Settles O36: the event's block state is the one `resetState` describes, taken at the machine's own parameters;
the parameters, the history and the results are copied over. -/
theorem resetEventOutcome : Obligations.ResetEventOutcome := by
  intro s
  obtain ⟨serial_closed, bus_closed, diag_off, slots_length, slots_reset, fs_idle, -, -, -, bs_length, bs_reset,
    no_caller⟩ := resetState s.params
  have slots_unbound : ∀ sl ∈ s.resetEvent.slots, sl.bound = false := fun sl hsl => (slots_reset sl hsl).1
  have bs_idle : ∀ b ∈ s.resetEvent.bs, b.st = .idle := fun b hb => (bs_reset b hb).1
  exact ⟨s.resetEvent, rfl, serial_closed, bus_closed, diag_off, slots_length, slots_unbound, fs_idle, bs_length,
    bs_idle, no_caller, s.resetEvent_params, s.resetEvent_history, s.resetEvent_results⟩

end Sys2Proof.Machine
end
